-- ==== Sys2Proof/Word.lean ====
section
/-! DEFINITION. The word types of the HiColor quantizer core: the widths of rules R60, R61, R66, R67, R68 and R10.
Bit 0 of every word is its least significant bit (R7). Nothing in the block is signed (R7). -/

namespace Sys2Proof

/-- A command word, format C (R60, R61): 64 bits, exchanged whole (R43). -/
abbrev Command := BitVec 64

/-- A response word, format R (R60, R67): 32 bits, exchanged whole (R43). -/
abbrev Response := BitVec 32

/-- The DATA field of a command or of a response (R61, R66, R67). -/
abbrev Data := BitVec 24

/-- One channel of an RgbColor, an unsigned 8-bit intensity (R10). -/
abbrev Channel := BitVec 8

/-- A pixel coordinate x or y: an unsigned 16-bit integer, every value legal (R10, R64). -/
abbrev Coord := BitVec 16

/-- A PackedValue, "only meaningful paired with a FormatVariant" (R10, R68). -/
abbrev PackedValue := BitVec 16

/-- A 5-bit bucket, 0..31 (R10). -/
abbrev Bucket5 := BitVec 5

/-- A 6-bit bucket, 0..63 (R10). -/
abbrev Bucket6 := BitVec 6

/-- An entry k of BAYER, 0..63, the threshold fraction being k/64 (R25, R133). -/
abbrev Threshold := BitVec 6

/-- The mask m of the stochastic policy, 0..255, the mask fraction being m/255 (R136). -/
abbrev Mask := BitVec 8

/-- The status field ST of a response (R67). -/
abbrev Status := BitVec 4

end Sys2Proof
end

