-- ==== Sys2Proof/Syntax.lean ====
section
/-! DEFINITION. The syntax of the HQC command set, version 1: the types of rule R10, the twelve operations of rule R69
(one constructor of `Instr` per row of the operation table), and the textual forms of rules R74 and R75. -/

namespace Sys2Proof

/-- The FormatVariant of rule R10: exactly two members, no third (R4). -/
inductive Variant where
  /-- Variant15, 5-5-5 bits for R-G-B, one bit unused; `v15` in assembler syntax. -/
  | v15
  /-- Variant16, 5-6-5 bits for R-G-B; `v16` in assembler syntax. -/
  | v16
deriving DecidableEq, Repr

/-- The DitherPolicy of rules R10 and R63: a closed set of three. -/
inductive DitherPolicy where
  /-- "identity function", suffix `.N` -/
  | none
  /-- ordered (Bayer) dithering, suffix `.O` -/
  | ordered
  /-- stochastic threshold dithering, suffix `.S` -/
  | stochastic
deriving DecidableEq, Repr

/-- The RgbColor of rule R10: three 8-bit channels. -/
structure RgbColor where
  r : Channel
  g : Channel
  b : Channel
deriving DecidableEq, Repr

/-- The mnemonics of the twelve rows of rule R69. -/
inductive Mnemonic where
  | pack | unpack | dithN | dithO | dithS | quantN | quantO | quantS | scd5 | scd6 | scu5 | scu6
deriving DecidableEq, Repr

/-- The twelve operations of rule R69 with their operands. Every value of every operand type is a legal operand
(R77), so that no operand outside its domain can be written down. -/
inductive Instr where
  /-- PACK (R90), sub-form C-RGB -/
  | pack (v : Variant) (c : RgbColor)
  /-- UNPACK (R91), sub-form C-VAL -/
  | unpack (v : Variant) (p : PackedValue)
  /-- DITH.N (R130), sub-form C-PIX -/
  | dithN (v : Variant) (x y : Coord) (c : RgbColor)
  /-- DITH.O (R131), sub-form C-PIX -/
  | dithO (v : Variant) (x y : Coord) (c : RgbColor)
  /-- DITH.S (R132), sub-form C-PIX -/
  | dithS (v : Variant) (x y : Coord) (c : RgbColor)
  /-- QUANT.N (R160), sub-form C-PIX -/
  | quantN (v : Variant) (x y : Coord) (c : RgbColor)
  /-- QUANT.O (R161), sub-form C-PIX -/
  | quantO (v : Variant) (x y : Coord) (c : RgbColor)
  /-- QUANT.S (R162), sub-form C-PIX -/
  | quantS (v : Variant) (x y : Coord) (c : RgbColor)
  /-- SCD5 (R110), sub-form C-IDX -/
  | scd5 (i : Channel)
  /-- SCD6 (R111), sub-form C-IDX -/
  | scd6 (i : Channel)
  /-- SCU5 (R112), sub-form C-IDX -/
  | scu5 (b : Bucket5)
  /-- SCU6 (R113), sub-form C-IDX -/
  | scu6 (b : Bucket6)
deriving DecidableEq, Repr

/-- The row of the operation table that an operation belongs to. -/
def Instr.mnemonic : Instr → Mnemonic
  | .pack _ _ => .pack
  | .unpack _ _ => .unpack
  | .dithN _ _ _ _ => .dithN
  | .dithO _ _ _ _ => .dithO
  | .dithS _ _ _ _ => .dithS
  | .quantN _ _ _ _ => .quantN
  | .quantO _ _ _ _ => .quantO
  | .quantS _ _ _ _ => .quantS
  | .scd5 _ => .scd5
  | .scd6 _ => .scd6
  | .scu5 _ => .scu5
  | .scu6 _ => .scu6

/-- The ImageMetadata of rule R10, used by the host's sequence QIMG only. -/
structure ImageMetadata where
  variant : Variant
  width : BitVec 16
  height : BitVec 16
deriving DecidableEq, Repr

/-- An operand as the assembler's text writes it (R74): numbers are unbounded here, and their ranges are checked by
`AsmLine.wellFormed`. -/
inductive AsmOperand where
  /-- `v15` or `v16` -/
  | variant (v : Variant)
  /-- a decimal integer: a coordinate or a table index -/
  | number (n : Nat)
  /-- `(r,g,b)` with three decimal integers -/
  | colour (r g b : Nat)
  /-- `0x` and hexadecimal digits: a packed value -/
  | packed (n : Nat)
deriving DecidableEq, Repr

/-- A line of assembler text (R74): `MNEMONIC operand, operand, ...`. -/
structure AsmLine where
  mnemonic : Mnemonic
  operands : List AsmOperand
deriving DecidableEq, Repr

/-- A pseudo-instruction line (R75): `QIMG.p v, w, h, buf`. -/
structure QimgLine where
  policy : DitherPolicy
  variant : Variant
  width : Nat
  height : Nat
  /-- the name the text gives the host's PixelBuffer -/
  buf : List Char
deriving DecidableEq, Repr

end Sys2Proof
end

