-- ==== Sys2Proof/Config.lean ====
section
/-! DEFINITION. What a build of the block fixes, rule R6: the five tables and STO_ROUND, and the one free value the
spec leaves to every claim (U1 of spec/93_implementation_defined.md). The contents this hardware has stand in
Sys2Proof/Machine/Tables.lean. -/

namespace Sys2Proof

/-- The five constant tables of rules R20 to R25. The types say the sizes and the entry ranges; rule R26 lets a
model assume nothing else of them but `Tables.Lawful`. -/
structure Tables where
  /-- DOWN5, 8-bit intensity to 5-bit bucket (R21) -/
  down5 : Vector Bucket5 256
  /-- DOWN6, 8-bit intensity to 6-bit bucket (R22) -/
  down6 : Vector Bucket6 256
  /-- UP5, 5-bit bucket to its representative (R23) -/
  up5 : Vector Channel 32
  /-- UP6, 6-bit bucket to its representative (R24) -/
  up6 : Vector Channel 64
  /-- BAYER, entry `8*row + col` (R25) -/
  bayer : Vector Threshold 64
deriving DecidableEq, Repr

/-- The parameter STO_ROUND of rule R6 (D13, U11): how `255*q'/L` is rounded. This hardware rounds down. -/
inductive StoRound where
  /-- this hardware: `fdiv(255*q', L)` -/
  | floor
  /-- the reading set aside: `fdiv(2*255*q' + L, 2*L)` -/
  | nearest
deriving DecidableEq, Repr

/-- The parameters of the step function (R6, R20): "a model makes the tables configuration (parameters of the step
function), not state". NREPL is the number of copies in `Machine.Replicas`. -/
structure Params where
  tables : Tables
  stoRound : StoRound
deriving DecidableEq, Repr

/-- The bits of a colour that the spec leaves at any value: what an element of the host's PixelBuffer holds after a
QIMG sequence that reported an error (R169, R219, U1: "treat as any value"). No body: nothing can be proved of it. -/
opaque Config.freeColourBits : Nat → BitVec 24

end Sys2Proof
end

