-- ==== Sys2Proof/Machine/Operands.lean ====
section
/-! DEFINITION. The layouts of the words: format C (R61), the V and POL fields (R63, R65), the three layouts of DATA
(R66), the PackedValue layouts PV15 and PV16 (R68), and what a policy's suffix selects. -/

namespace Sys2Proof

/-- Format C (R61): OP, POL, V, Z, Y, X, DATA from bit 63 down to bit 0. -/
def formC (op : BitVec 4) (pol : BitVec 2) (v z : BitVec 1) (y x : Coord) (d : Data) : Command :=
  op ++ pol ++ v ++ z ++ y ++ x ++ d

/-- `CMD[57]`, the V field (R61). -/
def Command.vField (w : Command) : BitVec 1 := w.extractLsb' 57 1

/-- `CMD[55:40]`, the Y field (R61, R64). -/
def Command.yField (w : Command) : Coord := w.extractLsb' 40 16

/-- `CMD[39:24]`, the X field (R61, R64). -/
def Command.xField (w : Command) : Coord := w.extractLsb' 24 16

/-- `CMD[23:0]`, the DATA field (R61). -/
def Command.dataField (w : Command) : Data := w.extractLsb' 0 24

/-- The variant a V field names (R65): 0 is Variant15, 1 is Variant16. -/
def variantOfBit (b : BitVec 1) : Variant := if b = 0#1 then .v15 else .v16

/-- The V field of a variant (R65). -/
def Variant.bit : Variant → BitVec 1
  | .v15 => 0#1
  | .v16 => 1#1

/-- The POL field of a policy (R63). -/
def DitherPolicy.code : DitherPolicy → BitVec 2
  | .none => 0#2
  | .ordered => 1#2
  | .stochastic => 2#2

/-- The colour in a DATA field (R66): r lowest, then g, then b. -/
def colourOfData (d : Data) : RgbColor :=
  { r := d.extractLsb' 0 8, g := d.extractLsb' 8 8, b := d.extractLsb' 16 8 }

/-- The DATA field of a colour (R66): `r | g << 8 | b << 16`. -/
def dataOfColour (c : RgbColor) : Data := c.b ++ c.g ++ c.r

/-- The packed value in a DATA field (R66): `DATA[15:0]`. -/
def packedOfData (d : Data) : PackedValue := d.extractLsb' 0 16

/-- The DATA field of a packed value (R66): `DATA[23:16]` zero. -/
def dataOfPacked (p : PackedValue) : Data := 0#8 ++ p

/-- The DATA field of an index or a channel (R66): in the low bits, the bits above zero. -/
def dataOfIndex {n : Nat} (i : BitVec n) : Data := i.setWidth 24

/-- Layout PV15 (R68): bit 15 zero, then the blue, green and red buckets at offsets 10, 5 and 0. -/
def pv15 (r g b : Bucket5) : PackedValue :=
  r.setWidth 16 ||| g.setWidth 16 <<< 5 ||| b.setWidth 16 <<< 10

/-- Layout PV16 (R68): the blue, green and red buckets at offsets 11, 5 and 0. -/
def pv16 (r : Bucket5) (g : Bucket6) (b : Bucket5) : PackedValue :=
  r.setWidth 16 ||| g.setWidth 16 <<< 5 ||| b.setWidth 16 <<< 11

/-- The red bucket of a packed value, the same bits in both layouts (R68). -/
def PackedValue.red (p : PackedValue) : Bucket5 := p.extractLsb' 0 5

/-- `G5` of layout PV15 (R68). -/
def PackedValue.green15 (p : PackedValue) : Bucket5 := p.extractLsb' 5 5

/-- `B5` of layout PV15 (R68). -/
def PackedValue.blue15 (p : PackedValue) : Bucket5 := p.extractLsb' 10 5

/-- The reserved bit of layout PV15 (R68, R70). -/
def PackedValue.reserved15 (p : PackedValue) : Bool := p.getLsbD 15

/-- `G6` of layout PV16 (R68). -/
def PackedValue.green16 (p : PackedValue) : Bucket6 := p.extractLsb' 5 6

/-- `B5` of layout PV16 (R68). -/
def PackedValue.blue16 (p : PackedValue) : Bucket5 := p.extractLsb' 11 5

end Sys2Proof
end

