-- ==== Sys2Proof/Machine/Flags.lean ====
section
/-! DEFINITION. The block has no flags, condition codes or predicates (R29). The one status there is stands in the
response to the command that caused it: the ST field of format R (R67) and its codes (R180, R181, R182). -/

namespace Sys2Proof

/-- The error kinds of the block (R180, R181). The codec's other kinds arise outside it (R184). -/
inductive ErrorKind where
  /-- the reserved bit is set in a Variant15 value given to UNPACK (R180) -/
  | invalidValue
  /-- the command word matches no row of the operation table (R181) -/
  | illegalCommand
deriving DecidableEq, Repr

/-- The status code of success (R182). -/
def statusOk : Status := 0#4

/-- The status code of an error: 1 InvalidValue (R180), 2 IllegalCommand (R181). -/
def ErrorKind.status : ErrorKind → Status
  | .invalidValue => 1#4
  | .illegalCommand => 2#4

/-- Format R (R67): ST in bits 31:28, bits 27:24 zero, DATA in bits 23:0. -/
def formR (st : Status) (d : Data) : Response := st ++ 0#4 ++ d

/-- `RSP[31:28]`, the ST field (R67). -/
def Response.statusField (r : Response) : Status := r.extractLsb' 28 4

/-- `RSP[27:24]`, always zero (R67). -/
def Response.zeroField (r : Response) : BitVec 4 := r.extractLsb' 24 4

/-- `RSP[23:0]`, the DATA field (R67). -/
def Response.dataField (r : Response) : Data := r.extractLsb' 0 24

/-- The response of an operation that ends with `respond(d)` (R8, R182). -/
def okResponse (d : Data) : Response := formR statusOk d

/-- The response of an operation that ends with `raise e` (R8, R187): the code of the error, DATA zero. -/
def errorResponse (e : ErrorKind) : Response := formR e.status 0#24

end Sys2Proof
end

