-- ==== Sys2Proof/Decode.lean ====
section
/-! DEFINITION. Decoding and encoding of command words (R60 to R73, R77). Decoding is the comparison of rule R77:
the word is held against the mask and match of each row of rule R69, and the row that matches says how the operands
are read. A word that matches no row is illegal (R71) and is rejected by name, as IllegalCommand (R181). -/

namespace Sys2Proof

/-- A row of the operation table of rule R69: a word w selects it when `w & mask = pattern`. -/
structure OpRow where
  mnemonic : Mnemonic
  pattern : Command
  mask : Command
deriving DecidableEq, Repr

/-- The complete operation table (R69), in its order. -/
def opTable : List OpRow :=
  [ { mnemonic := .pack, pattern := 0x1000000000000000#64, mask := 0xFDFFFFFFFF000000#64 },
    { mnemonic := .unpack, pattern := 0x2000000000000000#64, mask := 0xFDFFFFFFFFFF0000#64 },
    { mnemonic := .dithN, pattern := 0x3000000000000000#64, mask := 0xFD00000000000000#64 },
    { mnemonic := .dithO, pattern := 0x3400000000000000#64, mask := 0xFD00000000000000#64 },
    { mnemonic := .dithS, pattern := 0x3800000000000000#64, mask := 0xFD00000000000000#64 },
    { mnemonic := .quantN, pattern := 0x4000000000000000#64, mask := 0xFD00000000000000#64 },
    { mnemonic := .quantO, pattern := 0x4400000000000000#64, mask := 0xFD00000000000000#64 },
    { mnemonic := .quantS, pattern := 0x4800000000000000#64, mask := 0xFD00000000000000#64 } ] ++
  [ { mnemonic := .scd5, pattern := 0x8000000000000000#64, mask := 0xFFFFFFFFFFFFFF00#64 },
    { mnemonic := .scd6, pattern := 0x9000000000000000#64, mask := 0xFFFFFFFFFFFFFF00#64 },
    { mnemonic := .scu5, pattern := 0xA000000000000000#64, mask := 0xFFFFFFFFFFFFFFE0#64 },
    { mnemonic := .scu6, pattern := 0xB000000000000000#64, mask := 0xFFFFFFFFFFFFFFC0#64 } ]

/-- `w & mask = match` (R69). -/
def OpRow.selects (r : OpRow) (w : Command) : Bool := w &&& r.mask == r.pattern

/-- The row of rule R69 that a word matches, if any (R77). -/
def selectRow (w : Command) : Option OpRow := opTable.find? (fun r => r.selects w)

/-- The operands of a word whose row is known, read by rules R64 to R66. -/
def readOperands (m : Mnemonic) (w : Command) : Instr :=
  let v := variantOfBit (Command.vField w)
  let x := Command.xField w
  let y := Command.yField w
  let d := Command.dataField w
  match m with
  | .pack => .pack v (colourOfData d)
  | .unpack => .unpack v (packedOfData d)
  | .dithN => .dithN v x y (colourOfData d)
  | .dithO => .dithO v x y (colourOfData d)
  | .dithS => .dithS v x y (colourOfData d)
  | .quantN => .quantN v x y (colourOfData d)
  | .quantO => .quantO v x y (colourOfData d)
  | .quantS => .quantS v x y (colourOfData d)
  | .scd5 => .scd5 (d.extractLsb' 0 8)
  | .scd6 => .scd6 (d.extractLsb' 0 8)
  | .scu5 => .scu5 (d.extractLsb' 0 5)
  | .scu6 => .scu6 (d.extractLsb' 0 6)

/-- Decoding (R77): a total function from 64-bit words to the twelve operations with their operands, or to
"illegal" (R71), which is the error IllegalCommand (R181). It reads nothing but the word. -/
def decode (w : Command) : Except ErrorKind Instr :=
  match selectRow w with
  | some r => .ok (readOperands r.mnemonic w)
  | none => .error .illegalCommand

/-- The command word of an operation, built field by field from the encodings of rules R61 to R66. -/
def encode : Instr → Command
  | .pack v c => formC 0x1#4 0#2 v.bit 0#1 0#16 0#16 (dataOfColour c)
  | .unpack v p => formC 0x2#4 0#2 v.bit 0#1 0#16 0#16 (dataOfPacked p)
  | .dithN v x y c => formC 0x3#4 DitherPolicy.none.code v.bit 0#1 y x (dataOfColour c)
  | .dithO v x y c => formC 0x3#4 DitherPolicy.ordered.code v.bit 0#1 y x (dataOfColour c)
  | .dithS v x y c => formC 0x3#4 DitherPolicy.stochastic.code v.bit 0#1 y x (dataOfColour c)
  | .quantN v x y c => formC 0x4#4 DitherPolicy.none.code v.bit 0#1 y x (dataOfColour c)
  | .quantO v x y c => formC 0x4#4 DitherPolicy.ordered.code v.bit 0#1 y x (dataOfColour c)
  | .quantS v x y c => formC 0x4#4 DitherPolicy.stochastic.code v.bit 0#1 y x (dataOfColour c)
  | .scd5 i => formC 0x8#4 0#2 0#1 0#1 0#16 0#16 (dataOfIndex i)
  | .scd6 i => formC 0x9#4 0#2 0#1 0#1 0#16 0#16 (dataOfIndex i)
  | .scu5 b => formC 0xA#4 0#2 0#1 0#1 0#16 0#16 (dataOfIndex b)
  | .scu6 b => formC 0xB#4 0#2 0#1 0#1 0#16 0#16 (dataOfIndex b)

/-- The QUANT operation of a policy (R163): the policy stands in the POL field. -/
def quantInstr (p : DitherPolicy) (v : Variant) (x y : Coord) (c : RgbColor) : Instr :=
  match p with
  | .none => .quantN v x y c
  | .ordered => .quantO v x y c
  | .stochastic => .quantS v x y c

/-- The instruction the decoder reads from an instruction whose low `nbits` bits are those of `w` and whose other
bits are zero. A command word is exchanged whole (R43), so no byte order arises. -/
def decodeTableWord (nbits w : Nat) : Option Instr :=
  match decode (BitVec.ofNat 64 (w % 2 ^ nbits)) with
  | .ok i => some i
  | .error _ => none

end Sys2Proof
end

