-- ==== Sys2Proof/Machine/Tables.lean ====
section
/-! DEFINITION. The five constant tables: how an entry is read, and the contents this hardware has at reset and at
every other time (rules R21 to R25, R33), written row by row as spec/10_state.md prints them. -/

namespace Sys2Proof

/-- `DOWN5[i]` (R21). -/
def Tables.down5At (t : Tables) (i : Channel) : Bucket5 :=
  t.down5[i.toNat]'(by have := i.isLt; omega)

/-- `DOWN6[i]` (R22). -/
def Tables.down6At (t : Tables) (i : Channel) : Bucket6 :=
  t.down6[i.toNat]'(by have := i.isLt; omega)

/-- `UP5[b]` (R23). -/
def Tables.up5At (t : Tables) (b : Bucket5) : Channel :=
  t.up5[b.toNat]'(by have := b.isLt; omega)

/-- `UP6[b]` (R24). -/
def Tables.up6At (t : Tables) (b : Bucket6) : Channel :=
  t.up6[b.toNat]'(by have := b.isLt; omega)

/-- `BAYER[8*row + col]`, row and column both 0..7 (R25): the index is the row's three bits above the column's. -/
def Tables.bayerAt (t : Tables) (row col : BitVec 3) : Threshold :=
  t.bayer[8 * row.toNat + col.toNat]'(by have := row.isLt; have := col.isLt; omega)

/-- The printed contents of DOWN5 (R21). -/
def down5Rows : List Nat :=
  [0, 0, 0, 0, 0, 1, 1, 1, 1, 1, 1, 1, 1, 2, 2, 2] ++
  [2, 2, 2, 2, 2, 3, 3, 3, 3, 3, 3, 3, 3, 4, 4, 4] ++
  [4, 4, 4, 4, 4, 4, 5, 5, 5, 5, 5, 5, 5, 5, 6, 6] ++
  [6, 6, 6, 6, 6, 6, 7, 7, 7, 7, 7, 7, 7, 7, 8, 8] ++
  [8, 8, 8, 8, 8, 8, 9, 9, 9, 9, 9, 9, 9, 9, 9, 10] ++
  [10, 10, 10, 10, 10, 10, 10, 11, 11, 11, 11, 11, 11, 11, 11, 12] ++
  [12, 12, 12, 12, 12, 12, 12, 13, 13, 13, 13, 13, 13, 13, 13, 13] ++
  [14, 14, 14, 14, 14, 14, 14, 14, 15, 15, 15, 15, 15, 15, 15, 15] ++
  [16, 16, 16, 16, 16, 16, 16, 16, 17, 17, 17, 17, 17, 17, 17, 17] ++
  [18, 18, 18, 18, 18, 18, 18, 18, 18, 19, 19, 19, 19, 19, 19, 19] ++
  [19, 20, 20, 20, 20, 20, 20, 20, 20, 21, 21, 21, 21, 21, 21, 21] ++
  [21, 22, 22, 22, 22, 22, 22, 22, 22, 22, 23, 23, 23, 23, 23, 23] ++
  [23, 23, 24, 24, 24, 24, 24, 24, 24, 24, 25, 25, 25, 25, 25, 25] ++
  [25, 25, 26, 26, 26, 26, 26, 26, 26, 26, 27, 27, 27, 27, 27, 27] ++
  [27, 27, 27, 28, 28, 28, 28, 28, 28, 28, 28, 29, 29, 29, 29, 29] ++
  [29, 29, 29, 30, 30, 30, 30, 30, 30, 30, 30, 31, 31, 31, 31, 31]

/-- DOWN5 as this hardware holds it (R21). -/
def down5Default : Vector (BitVec 5) 256 :=
  ⟨(down5Rows.map (BitVec.ofNat 5)).toArray, by decide +kernel⟩

/-- The printed contents of DOWN6 (R22). -/
def down6Rows : List Nat :=
  [0, 0, 0, 1, 1, 1, 1, 2, 2, 2, 2, 3, 3, 3, 3, 4] ++
  [4, 4, 4, 5, 5, 5, 5, 6, 6, 6, 6, 7, 7, 7, 7, 8] ++
  [8, 8, 8, 9, 9, 9, 9, 10, 10, 10, 10, 11, 11, 11, 11, 12] ++
  [12, 12, 12, 13, 13, 13, 13, 14, 14, 14, 14, 15, 15, 15, 15, 16] ++
  [16, 16, 16, 17, 17, 17, 17, 18, 18, 18, 18, 19, 19, 19, 19, 20] ++
  [20, 20, 20, 21, 21, 21, 21, 21, 22, 22, 22, 22, 23, 23, 23, 23] ++
  [24, 24, 24, 24, 25, 25, 25, 25, 26, 26, 26, 26, 27, 27, 27, 27] ++
  [28, 28, 28, 28, 29, 29, 29, 29, 30, 30, 30, 30, 31, 31, 31, 31] ++
  [32, 32, 32, 32, 33, 33, 33, 33, 34, 34, 34, 34, 35, 35, 35, 35] ++
  [36, 36, 36, 36, 37, 37, 37, 37, 38, 38, 38, 38, 39, 39, 39, 39] ++
  [40, 40, 40, 40, 41, 41, 41, 41, 42, 42, 42, 42, 42, 43, 43, 43] ++
  [43, 44, 44, 44, 44, 45, 45, 45, 45, 46, 46, 46, 46, 47, 47, 47] ++
  [47, 48, 48, 48, 48, 49, 49, 49, 49, 50, 50, 50, 50, 51, 51, 51] ++
  [51, 52, 52, 52, 52, 53, 53, 53, 53, 54, 54, 54, 54, 55, 55, 55] ++
  [55, 56, 56, 56, 56, 57, 57, 57, 57, 58, 58, 58, 58, 59, 59, 59] ++
  [59, 60, 60, 60, 60, 61, 61, 61, 61, 62, 62, 62, 62, 63, 63, 63]

/-- DOWN6 as this hardware holds it (R22). -/
def down6Default : Vector (BitVec 6) 256 :=
  ⟨(down6Rows.map (BitVec.ofNat 6)).toArray, by decide +kernel⟩

/-- The printed contents of UP5 (R23). -/
def up5Rows : List Nat :=
  [0, 8, 16, 25, 33, 41, 49, 58, 66, 74, 82, 90, 99, 107, 115, 123] ++
  [132, 140, 148, 156, 165, 173, 181, 189, 197, 206, 214, 222, 230, 239, 247, 255]

/-- UP5 as this hardware holds it (R23). -/
def up5Default : Vector (BitVec 8) 32 :=
  ⟨(up5Rows.map (BitVec.ofNat 8)).toArray, by decide +kernel⟩

/-- The printed contents of UP6 (R24). -/
def up6Rows : List Nat :=
  [0, 4, 8, 12, 16, 20, 24, 28, 32, 36, 40, 45, 49, 53, 57, 61] ++
  [65, 69, 73, 77, 81, 85, 89, 93, 97, 101, 105, 109, 113, 117, 121, 125] ++
  [130, 134, 138, 142, 146, 150, 154, 158, 162, 166, 170, 174, 178, 182, 186, 190] ++
  [194, 198, 202, 206, 210, 215, 219, 223, 227, 231, 235, 239, 243, 247, 251, 255]

/-- UP6 as this hardware holds it (R24). -/
def up6Default : Vector (BitVec 8) 64 :=
  ⟨(up6Rows.map (BitVec.ofNat 8)).toArray, by decide +kernel⟩

/-- The printed contents of BAYER (R25). -/
def bayerRows : List Nat :=
  [0, 32, 8, 40, 2, 34, 10, 42] ++
  [48, 16, 56, 24, 50, 18, 58, 26] ++
  [12, 44, 4, 36, 14, 46, 6, 38] ++
  [60, 28, 52, 20, 62, 30, 54, 22] ++
  [3, 35, 11, 43, 1, 33, 9, 41] ++
  [51, 19, 59, 27, 49, 17, 57, 25] ++
  [15, 47, 7, 39, 13, 45, 5, 37] ++
  [63, 31, 55, 23, 61, 29, 53, 21]

/-- BAYER as this hardware holds it (R25). -/
def bayerDefault : Vector (BitVec 6) 64 :=
  ⟨(bayerRows.map (BitVec.ofNat 6)).toArray, by decide +kernel⟩

/-- The five tables of this hardware (R20 to R25). -/
def defaultTables : Tables :=
  { down5 := down5Default, down6 := down6Default, up5 := up5Default, up6 := up6Default, bayer := bayerDefault }

/-- The parameters of this hardware (R6): the printed tables, STO_ROUND = floor. -/
def defaultParams : Params :=
  { tables := defaultTables, stoRound := .floor }

end Sys2Proof
end

