-- ==== Sys2Proof/Machine/State.lean ====
section
/-! DEFINITION. The state of the machine: the block with its command port, and the host that issues the commands,
holds the PixelBuffer and runs QIMG (spec/INDEX.md: "two agents"). The block itself has no register, program counter,
flag, mode or memory (R27 to R32, R40): its architectural state is the five tables (R20), carried in `params`. -/

namespace Sys2Proof.Machine

/-- Why a step stops with a fault. No command ever does: an error of the block is reported in its response (R187). -/
inductive Fault where
  /-- The host agent, running QIMG, asks its PixelBuffer for an element that is not there. Rule R166 gives QIMG a
  meaning only where "buf has w*h elements". Raised by `hostMove` alone. Safe: the model stops. -/
  | qimgElementMissing
deriving DecidableEq, Repr

/-- Why a step is refused. -/
inductive Refusal where
  /-- An operation without a meaning in the model. No arm of `exec` is refused: every operation has its meaning.
  Safe: the model stops. -/
  | notModelled (mnemonic : String)
deriving DecidableEq, Repr

/-- Where a QIMG sequence stands (R166): its arguments and the two loop variables. -/
structure QimgRun where
  policy : DitherPolicy
  image : ImageMetadata
  x : Nat
  y : Nat
deriving DecidableEq, Repr

/-- What the host is doing (R166): the host runs QIMG, "one QUANT command per pixel". -/
inductive HostPhase where
  /-- no QIMG sequence has been started -/
  | idle
  /-- at the head of the inner loop: about to issue the command of pixel (x, y) -/
  | issuing (q : QimgRun)
  /-- the command of pixel (x, y) is given and its response is not yet taken -/
  | waiting (q : QimgRun)
  /-- the last QIMG returned Ok -/
  | finished
  /-- the last QIMG returned Err(rsp.ST) (R169) -/
  | failed (st : Status)
deriving DecidableEq, Repr

/-- The state. -/
structure State where
  /-- The five tables (R20 to R25) and STO_ROUND (R6): constants of the build (R33, R213), never written. -/
  params : Params
  /-- The command words given on the command port and not yet answered, the oldest first (R49). -/
  pending : List Command
  /-- The responses delivered on the port and not yet taken by the host, in the order of their commands (R49). -/
  responses : List Response
  /-- The host's PixelBuffer, row-major, index = y*width + x (R10, R41); no byte layout (R42). -/
  buffer : List RgbColor
  /-- The host's place in the whole-image sequence QIMG (R166). -/
  phase : HostPhase
  /-- The MODEL's own counter of free values drawn (U1): the next index into `Config.freeColourBits`. -/
  freeCount : Nat
deriving DecidableEq, Repr

/-- The machine right after reset (R33, R210): the tables of rules R21 to R25, ready for the first command, nothing
pending. The host's own fields (an empty buffer, no sequence started) are DESIGN CHOICE, entry 7 of the log. -/
def State.reset : State :=
  { params := defaultParams, pending := [], responses := [], buffer := [], phase := .idle, freeCount := 0 }

end Sys2Proof.Machine
end

