-- ==== Sys2Proof/Machine/Ops.lean ====
section
/-! DEFINITION. The named operations every meaning is made of: delivering a response, taking an error (the block's
whole exception machinery, R187), and the two sides of the command port. There is no memory operation (R40) and no
return from an error (R188). -/

namespace Sys2Proof.Machine

/-- A response is delivered "in the normal place in the response order" (R49, R187): behind those before it. -/
def State.deliver (s : State) (r : Response) : State := { s with responses := s.responses ++ [r] }

/-- `respond(d)` (R8): the operation ends with status OK and its result in DATA. -/
def State.respond (s : State) (d : Data) : State := s.deliver (okResponse d)

/-- Error entry (R187), the one way an error is taken: ST is the error's code, DATA is zero, the response is
delivered in its normal place, and nothing else happens. -/
def State.raise (s : State) (e : ErrorKind) : State := s.deliver (errorResponse e)

/-- An operation ends with a colour, or with the error that stopped it. -/
def State.respondColour (s : State) : Except ErrorKind RgbColor → State
  | .ok c => s.respond (dataOfColour c)
  | .error e => s.raise e

/-- The block takes the oldest command that waits on its port (R49). -/
def State.takeCommand (s : State) : Option (Command × State) :=
  match s.pending with
  | [] => none
  | w :: rest => some (w, { s with pending := rest })

/-- The host gives a command: it waits behind those given before it (R49). -/
def State.issue (s : State) (w : Command) : State := { s with pending := s.pending ++ [w] }

/-- A command placed so that it is the next one the block takes. -/
def State.placeCommand (s : State) (w : Command) : State := { s with pending := w :: s.pending }

/-- The host takes the oldest response (R49, R215). -/
def State.takeResponse (s : State) : Option (Response × State) :=
  match s.responses with
  | [] => none
  | r :: rest => some (r, { s with responses := rest })

/-- The state of a block that has just been built with these parameters: nothing pending, nothing delivered. -/
def State.built (p : Params) : State :=
  { params := p, pending := [], responses := [], buffer := [], phase := .idle, freeCount := 0 }

end Sys2Proof.Machine
end

