-- ==== Sys2Proof/Machine/Dither.lean ====
section
/-! DEFINITION. The Dither Engine: DITH.N, DITH.O and DITH.S and their helper functions R133 to R137
(spec/42_dither_engine.md). The arithmetic is exact, over the natural numbers (R9, R143). -/

namespace Sys2Proof.Machine

/-- Threshold selection (R133): the row is `y mod 8`, the column `x mod 8`. -/
def thr (t : Tables) (x y : Coord) : Threshold :=
  t.bayerAt (BitVec.ofNat 3 (y.toNat % 8)) (BitVec.ofNat 3 (x.toNat % 8))

/-- The bucket the ordered policy chooses (R134), with `N = 2^n - 1`: `fdiv(64*N*c + 255*k, 16320)`. -/
def ordBucket (n : Nat) (k : Threshold) (c : Channel) : Nat :=
  (64 * (2 ^ n - 1) * c.toNat + 255 * k.toNat) / 16320

/-- `ordch_5(k, c)` (R134). -/
def ordch5 (t : Tables) (k : Threshold) (c : Channel) : Channel :=
  t.up5At (BitVec.ofNat 5 (ordBucket 5 k c))

/-- `ordch_6(k, c)` (R134). -/
def ordch6 (t : Tables) (k : Threshold) (c : Channel) : Channel :=
  t.up6At (BitVec.ofNat 6 (ordBucket 6 k c))

/-- The ordered function of the green channel: its depth depends on the variant (R135). -/
def ordchGreen (t : Tables) (v : Variant) (k : Threshold) (c : Channel) : Channel :=
  match v with
  | .v15 => ordch5 t k c
  | .v16 => ordch6 t k c

/-- `glevels(V)` (R135): 32 under Variant15, 64 under Variant16. -/
def greenLevels : Variant → Nat
  | .v15 => 32
  | .v16 => 64

/-- Stochastic mask (R136): `((x + 237*y) * 119) mod 256`, over the unbounded integers. -/
def smask (x y : Coord) : Mask :=
  BitVec.ofNat 8 (((x.toNat + 237 * y.toNat) * 119) % 256)

/-- `q' = min(fdiv(L*c + m, 255), L)` (R137). -/
def stochLevel (levels : Nat) (m : Mask) (c : Channel) : Nat :=
  min ((levels * c.toNat + m.toNat) / 255) levels

/-- "scale back to 8-bit" (R137): rounding down on this hardware; the other value of STO_ROUND is that of D13. -/
def scaleBack (round : StoRound) (levels q : Nat) : Nat :=
  match round with
  | .floor => 255 * q / levels
  | .nearest => (2 * 255 * q + levels) / (2 * levels)

/-- Stochastic channel function `stoch_L(m, c)` (R137). -/
def stoch (round : StoRound) (levels : Nat) (m : Mask) (c : Channel) : Channel :=
  BitVec.ofNat 8 (scaleBack round levels (stochLevel levels m c))

/-- DITH.O on a colour (R131): one threshold serves all three channels. -/
def ditherOrdered (t : Tables) (v : Variant) (x y : Coord) (c : RgbColor) : RgbColor :=
  let k := thr t x y
  { r := ordch5 t k c.r, g := ordchGreen t v k c.g, b := ordch5 t k c.b }

/-- DITH.S on a colour (R132): one mask serves all three channels. -/
def ditherStochastic (round : StoRound) (v : Variant) (x y : Coord) (c : RgbColor) : RgbColor :=
  let m := smask x y
  { r := stoch round 32 m c.r, g := stoch round (greenLevels v) m c.g, b := stoch round 32 m c.b }

/-- `dith_p(V, x, y, c)` of rule R163: the three policies. No dither is the identity (R130). -/
def dither (prm : Params) (p : DitherPolicy) (v : Variant) (x y : Coord) (c : RgbColor) : RgbColor :=
  match p with
  | .none => c
  | .ordered => ditherOrdered prm.tables v x y c
  | .stochastic => ditherStochastic prm.stoRound v x y c

/-- DITH.N (R130). -/
def execDithN (v : Variant) (x y : Coord) (c : RgbColor) (s : State) : Host.Outcome State Fault Refusal :=
  .next (s.respond (dataOfColour (dither s.params .none v x y c)))

/-- DITH.O (R131). -/
def execDithO (v : Variant) (x y : Coord) (c : RgbColor) (s : State) : Host.Outcome State Fault Refusal :=
  .next (s.respond (dataOfColour (dither s.params .ordered v x y c)))

/-- DITH.S (R132). -/
def execDithS (v : Variant) (x y : Coord) (c : RgbColor) (s : State) : Host.Outcome State Fault Refusal :=
  .next (s.respond (dataOfColour (dither s.params .stochastic v x y c)))

end Sys2Proof.Machine
end

