-- ==== Sys2Proof/Machine/Packer.lean ====
section
/-! DEFINITION. The Value Packer: PACK and UNPACK (spec/40_value_packer.md). The channels are scaled by the tables and
never by shifting (R90, R115; spec/90_conflicts.md C1). -/

namespace Sys2Proof.Machine

/-- The packed value of a colour (R90). It cannot fail (C2). -/
def packValue (t : Tables) (v : Variant) (c : RgbColor) : PackedValue :=
  match v with
  | .v15 => pv15 (t.down5At c.r) (t.down5At c.g) (t.down5At c.b)
  | .v16 => pv16 (t.down5At c.r) (t.down6At c.g) (t.down5At c.b)

/-- The colour of a packed value (R91). Under Variant15 the reserved bit is checked before any table is read. -/
def unpackValue (t : Tables) (v : Variant) (p : PackedValue) : Except ErrorKind RgbColor :=
  match v with
  | .v15 =>
      if PackedValue.reserved15 p then .error .invalidValue
      else .ok { r := t.up5At (PackedValue.red p), g := t.up5At (PackedValue.green15 p),
                 b := t.up5At (PackedValue.blue15 p) }
  | .v16 =>
      .ok { r := t.up5At (PackedValue.red p), g := t.up6At (PackedValue.green16 p),
            b := t.up5At (PackedValue.blue16 p) }

/-- PACK (R90). -/
def execPack (v : Variant) (c : RgbColor) (s : State) : Host.Outcome State Fault Refusal :=
  .next (s.respond (dataOfPacked (packValue s.params.tables v c)))

/-- UNPACK (R91). -/
def execUnpack (v : Variant) (p : PackedValue) (s : State) : Host.Outcome State Fault Refusal :=
  .next (s.respondColour (unpackValue s.params.tables v p))

end Sys2Proof.Machine
end

