-- ==== Sys2Proof/Machine/Quant.lean ====
section
/-! DEFINITION. The per-pixel work of the Image Quantizer: QUANT.N, QUANT.O and QUANT.S (spec/43_image_quantizer.md). -/

namespace Sys2Proof.Machine

/-- The last lines of the per-pixel function (R163), from the packed value on: its colour, or InvalidValue if the UNPACK
fails. The failure branch is kept (R164), although a freshly packed value never takes it. -/
def quantFinish (t : Tables) (v : Variant) (value : PackedValue) : Except ErrorKind RgbColor :=
  match unpackValue t v value with
  | .ok out => .ok out
  | .error _ => .error .invalidValue

/-- The per-pixel quantize function (R163): dither, pack, unpack. -/
def quantPix (prm : Params) (p : DitherPolicy) (v : Variant) (x y : Coord) (c : RgbColor) :
    Except ErrorKind RgbColor :=
  quantFinish prm.tables v (packValue prm.tables v (dither prm p v x y c))

/-- QUANT.N (R160). -/
def execQuantN (v : Variant) (x y : Coord) (c : RgbColor) (s : State) : Host.Outcome State Fault Refusal :=
  .next (s.respondColour (quantPix s.params .none v x y c))

/-- QUANT.O (R161). -/
def execQuantO (v : Variant) (x y : Coord) (c : RgbColor) (s : State) : Host.Outcome State Fault Refusal :=
  .next (s.respondColour (quantPix s.params .ordered v x y c))

/-- QUANT.S (R162). -/
def execQuantS (v : Variant) (x y : Coord) (c : RgbColor) (s : State) : Host.Outcome State Fault Refusal :=
  .next (s.respondColour (quantPix s.params .stochastic v x y c))

end Sys2Proof.Machine
end

