-- ==== Sys2Proof/Machine/Scale.lean ====
section
/-! DEFINITION. The Lookup Tables: SCD5, SCD6, SCU5 and SCU6, one read operation per table
(spec/41_lookup_tables.md). -/

namespace Sys2Proof.Machine

/-- SCD5 (R110). -/
def execScd5 (i : Channel) (s : State) : Host.Outcome State Fault Refusal :=
  .next (s.respond (dataOfIndex (s.params.tables.down5At i)))

/-- SCD6 (R111). -/
def execScd6 (i : Channel) (s : State) : Host.Outcome State Fault Refusal :=
  .next (s.respond (dataOfIndex (s.params.tables.down6At i)))

/-- SCU5 (R112). -/
def execScu5 (b : Bucket5) (s : State) : Host.Outcome State Fault Refusal :=
  .next (s.respond (dataOfIndex (s.params.tables.up5At b)))

/-- SCU6 (R113). -/
def execScu6 (b : Bucket6) (s : State) : Host.Outcome State Fault Refusal :=
  .next (s.respond (dataOfIndex (s.params.tables.up6At b)))

end Sys2Proof.Machine
end

