-- ==== Sys2Proof/Machine/Dispatch.lean ====
section
/-! DEFINITION. The dispatch of the twelve operations (R69) to their meanings, one arm per constructor. -/

namespace Sys2Proof.Machine

def exec (i : Instr) (s : State) : Host.Outcome State Fault Refusal :=
  match i with
  | .pack v c => Sys2Proof.Machine.execPack v c s
  | .unpack v p => Sys2Proof.Machine.execUnpack v p s
  | .dithN v x y c => Sys2Proof.Machine.execDithN v x y c s
  | .dithO v x y c => Sys2Proof.Machine.execDithO v x y c s
  | .dithS v x y c => Sys2Proof.Machine.execDithS v x y c s
  | .quantN v x y c => Sys2Proof.Machine.execQuantN v x y c s
  | .quantO v x y c => Sys2Proof.Machine.execQuantO v x y c s
  | .quantS v x y c => Sys2Proof.Machine.execQuantS v x y c s
  | .scd5 k => Sys2Proof.Machine.execScd5 k s
  | .scd6 k => Sys2Proof.Machine.execScd6 k s
  | .scu5 b => Sys2Proof.Machine.execScu5 b s
  | .scu6 b => Sys2Proof.Machine.execScu6 b s

end Sys2Proof.Machine
end

