-- ==== Sys2Proof/Machine/Qimg.lean ====
section
/-! DEFINITION. The host agent: QIMG, "carried out by the host, one QUANT command per pixel" (R166). The loop of rule
R166 is cut into the host's moves: give the command of pixel (x, y), take its response and write the element back,
return. Between the two the block answers. -/

namespace Sys2Proof.Machine

/-- The element index of pixel (x, y) in a PixelBuffer of this width (R41): `y*width + x`. -/
def elementIndex (width x y : Nat) : Nat := y * width + x

/-- The index `i = y * w + x` of the pixel a sequence stands at (R166). -/
def runIndex (q : QimgRun) : Nat := elementIndex q.image.width.toNat q.x q.y

/-- The two loops are over: `y` has passed `h - 1`, or no `x` is in `0 .. w - 1` (R166). -/
def runDone (q : QimgRun) : Bool := q.image.width == 0 || decide (q.image.height.toNat ≤ q.y)

/-- The next pair of loop variables, in row-major order (R166). -/
def runAdvance (q : QimgRun) : QimgRun :=
  if q.x + 1 < q.image.width.toNat then { q with x := q.x + 1 } else { q with x := 0, y := q.y + 1 }

/-- The command `QUANT.p V, x, y, c` of the pixel a sequence stands at (R166). -/
def runCommand (q : QimgRun) (c : RgbColor) : Command :=
  encode (quantInstr q.policy q.image.variant (BitVec.ofNat 16 q.x) (BitVec.ofNat 16 q.y) c)

/-- n colours the spec leaves at any value, from the k-th free value on (U1). -/
def freeColours (k n : Nat) : List RgbColor :=
  (List.range n).map (fun i => colourOfData (Config.freeColourBits (k + i)))

/-- QIMG returns `Err(st)` (R169): the buffer has no guaranteed contents (U1), every element is at any value. -/
def State.failQimg (s : State) (st : Status) : State :=
  { s with phase := .failed st, buffer := freeColours s.freeCount s.buffer.length,
           freeCount := s.freeCount + s.buffer.length }

/-- The host issues the command of the pixel the sequence stands at, or returns Ok when the loops are over (R166). -/
def hostIssue (q : QimgRun) (s : State) : Host.Outcome State Fault Refusal :=
  if runDone q then .next { s with phase := .finished }
  else match s.buffer[runIndex q]? with
    | none => .fault .qimgElementMissing
    | some c => .next { s.issue (runCommand q c) with phase := .waiting q }

/-- The host takes the response to its command: an error ends the sequence (R169), a colour is written to the element
it came from (R166). While no response has come the host waits. -/
def hostCollect (q : QimgRun) (s : State) : Host.Outcome State Fault Refusal :=
  match s.takeResponse with
  | none => .next s
  | some (r, s') =>
      if Response.statusField r = statusOk then
        .next { s' with buffer := s'.buffer.set (runIndex q) (colourOfData (Response.dataField r)),
                        phase := .issuing (runAdvance q) }
      else .next (s'.failQimg (Response.statusField r))

/-- One move of the host. With no sequence under way the host does nothing of itself: which command comes next is its
user's business (R28), and "nothing happens in the block except in answer to a command" (R185). -/
def hostMove (s : State) : Host.Outcome State Fault Refusal :=
  match s.phase with
  | .idle => .next s
  | .issuing q => hostIssue q s
  | .waiting q => hostCollect q s
  | .finished => .next s
  | .failed _ => .next s

/-- No sequence is under way. -/
def HostPhase.atRest : HostPhase → Bool
  | .idle => true
  | .issuing _ => false
  | .waiting _ => false
  | .finished => true
  | .failed _ => true

/-- The host is ready to start QIMG on an image (R213, R215, R166): its buffer has `w*h` elements, every earlier
command is answered and its response taken, and no other sequence is under way. -/
def State.readyFor (s : State) (im : ImageMetadata) : Bool :=
  decide (s.buffer.length = im.width.toNat * im.height.toNat) && s.pending.isEmpty && s.responses.isEmpty &&
    s.phase.atRest

/-- `QIMG.p v, w, h, buf` is begun (R75, R166): the loops start at y = 0, x = 0. None where the host is not ready. -/
def State.startQimg (s : State) (p : DitherPolicy) (im : ImageMetadata) : Option State :=
  if s.readyFor im then some { s with phase := .issuing { policy := p, image := im, x := 0, y := 0 } } else none

/-- The expansion of the pseudo-instruction (R75): the commands it stands for, one for each pixel in row-major order. -/
def expandQimg (p : DitherPolicy) (im : ImageMetadata) (buf : List RgbColor) : List Instr :=
  (List.range (im.width.toNat * im.height.toNat)).filterMap (fun i =>
    buf[i]?.map (fun c => quantInstr p im.variant (BitVec.ofNat 16 (i % im.width.toNat))
      (BitVec.ofNat 16 (i / im.width.toNat)) c))

end Sys2Proof.Machine
end

