-- ==== Sys2Proof/Machine/Step.lean ====
section
/-! DEFINITION. One step of the machine: a transaction of the block while a command waits on its port (R46, R77), and
a move of the host otherwise. -/

namespace Sys2Proof.Machine

/-- One transaction: the word is decoded by itself (R73, R77); a legal word is executed, an illegal one answered with
IllegalCommand (R181, R186: decoding comes before execution). -/
def transaction (w : Command) (s : State) : Host.Outcome State Fault Refusal :=
  match decode w with
  | .ok i => exec i s
  | .error e => .next (s.raise e)

/-- One step: the block answers the oldest pending command; with none pending, the host moves. -/
def step (s : State) : Host.Outcome State Fault Refusal :=
  match s.takeCommand with
  | some (w, s') => transaction w s'
  | none => hostMove s

/-- The state in which the next command the block takes is the one whose low `nbits` bits are those of `w`. -/
def State.withFetchWord (s : State) (nbits w : Nat) : State :=
  s.placeCommand (BitVec.ofNat 64 (w % 2 ^ nbits))

end Sys2Proof.Machine
end

