-- ==== Sys2Proof/WellFormed.lean ====
section
/-! DEFINITION. Well-formedness. An `Instr` needs no check of its own: each operand's type is its whole legal domain
(R77). What can be ill-formed is a line of assembler text (R74: "the assembler refuses an operand that is out of
range"), a pseudo-instruction (R75), and a choice of tables (R26 (a), R25). -/

namespace Sys2Proof

/-- A coordinate is 0..65535 (R74). -/
def AsmOperand.isCoord : AsmOperand → Bool
  | .number n => decide (n ≤ 65535)
  | _ => false

/-- A colour is three integers 0..255 (R74). -/
def AsmOperand.isColour : AsmOperand → Bool
  | .colour r g b => decide (r ≤ 255) && decide (g ≤ 255) && decide (b ≤ 255)
  | _ => false

/-- A variant is `v15` or `v16` (R74). -/
def AsmOperand.isVariant : AsmOperand → Bool
  | .variant _ => true
  | _ => false

/-- A packed value has four hexadecimal digits (R74). -/
def AsmOperand.isPacked : AsmOperand → Bool
  | .packed n => decide (n ≤ 0xFFFF)
  | _ => false

/-- A table index below a bound (R74; the bounds are those of R69's operand column). -/
def AsmOperand.isIndexBelow (bound : Nat) : AsmOperand → Bool
  | .number n => decide (n < bound)
  | _ => false

/-- The operand checks of each of the twelve forms, in the order the text writes them (R74). -/
def Mnemonic.operandChecks : Mnemonic → List (AsmOperand → Bool)
  | .pack => [AsmOperand.isVariant, AsmOperand.isColour]
  | .unpack => [AsmOperand.isVariant, AsmOperand.isPacked]
  | .dithN | .dithO | .dithS | .quantN | .quantO | .quantS =>
      [AsmOperand.isVariant, AsmOperand.isCoord, AsmOperand.isCoord, AsmOperand.isColour]
  | .scd5 | .scd6 => [AsmOperand.isIndexBelow 256]
  | .scu5 => [AsmOperand.isIndexBelow 32]
  | .scu6 => [AsmOperand.isIndexBelow 64]

/-- Every operand passes its check, and there are as many as the form has. -/
def operandsPass : List (AsmOperand → Bool) → List AsmOperand → Bool
  | [], [] => true
  | check :: checks, o :: os => check o && operandsPass checks os
  | _, _ => false

/-- A line of assembler text is well formed when its operands are those of its form, each in range (R74). -/
def AsmLine.wellFormed (l : AsmLine) : Bool :=
  operandsPass l.mnemonic.operandChecks l.operands

/-- A QIMG line is well formed when w and h are 0..65535 and it names a buffer (R75). -/
def QimgLine.wellFormed (l : QimgLine) : Bool :=
  decide (l.width ≤ 65535) && decide (l.height ≤ 65535) && !l.buf.isEmpty

/-- What rules R26 and R25 let a model assume of the tables, beyond the sizes and ranges the types say: the
fixed-point property (R26 (a)) for every bucket, and that BAYER is a permutation of 0..63 (every threshold stands at
exactly one row and column). -/
structure Tables.Lawful (t : Tables) : Prop where
  fixed5 : ∀ b : Bucket5, t.down5At (t.up5At b) = b
  fixed6 : ∀ b : Bucket6, t.down6At (t.up6At b) = b
  bayerOnto : ∀ k : Threshold, ∃ row col : BitVec 3, t.bayerAt row col = k
  bayerOnce : ∀ row col row' col' : BitVec 3, t.bayerAt row col = t.bayerAt row' col' → row = row' ∧ col = col'

end Sys2Proof
end

