-- ==== Sys2Proof/Machine/Assembler.lean ====
section
/-! DEFINITION. The assembler (R74, R75): from text to a line, from a well-formed line to an operation, and back; and
the textual form of a response. Text is a list of characters. What the spec leaves open of the text (how many spaces,
the case of a hexadecimal digit) is entry 12 of the log. -/

namespace Sys2Proof.Machine

/-- The operation of a line of assembler text; none where an operand is missing, of the wrong kind or out of range
(R74: "the assembler refuses an operand that is out of range"). -/
def assemble (l : AsmLine) : Option Instr :=
  if l.wellFormed then
    match l.mnemonic, l.operands with
    | .pack, [.variant v, .colour r g b] => some (.pack v ⟨BitVec.ofNat 8 r, BitVec.ofNat 8 g, BitVec.ofNat 8 b⟩)
    | .unpack, [.variant v, .packed n] => some (.unpack v (BitVec.ofNat 16 n))
    | .dithN, [.variant v, .number x, .number y, .colour r g b] =>
        some (.dithN v (BitVec.ofNat 16 x) (BitVec.ofNat 16 y) ⟨BitVec.ofNat 8 r, BitVec.ofNat 8 g, BitVec.ofNat 8 b⟩)
    | .dithO, [.variant v, .number x, .number y, .colour r g b] =>
        some (.dithO v (BitVec.ofNat 16 x) (BitVec.ofNat 16 y) ⟨BitVec.ofNat 8 r, BitVec.ofNat 8 g, BitVec.ofNat 8 b⟩)
    | .dithS, [.variant v, .number x, .number y, .colour r g b] =>
        some (.dithS v (BitVec.ofNat 16 x) (BitVec.ofNat 16 y) ⟨BitVec.ofNat 8 r, BitVec.ofNat 8 g, BitVec.ofNat 8 b⟩)
    | .quantN, [.variant v, .number x, .number y, .colour r g b] =>
        some (.quantN v (BitVec.ofNat 16 x) (BitVec.ofNat 16 y) ⟨BitVec.ofNat 8 r, BitVec.ofNat 8 g, BitVec.ofNat 8 b⟩)
    | .quantO, [.variant v, .number x, .number y, .colour r g b] =>
        some (.quantO v (BitVec.ofNat 16 x) (BitVec.ofNat 16 y) ⟨BitVec.ofNat 8 r, BitVec.ofNat 8 g, BitVec.ofNat 8 b⟩)
    | .quantS, [.variant v, .number x, .number y, .colour r g b] =>
        some (.quantS v (BitVec.ofNat 16 x) (BitVec.ofNat 16 y) ⟨BitVec.ofNat 8 r, BitVec.ofNat 8 g, BitVec.ofNat 8 b⟩)
    | .scd5, [.number i] => some (.scd5 (BitVec.ofNat 8 i))
    | .scd6, [.number i] => some (.scd6 (BitVec.ofNat 8 i))
    | .scu5, [.number b] => some (.scu5 (BitVec.ofNat 5 b))
    | .scu6, [.number b] => some (.scu6 (BitVec.ofNat 6 b))
    | _, _ => none
  else none

/-- The colour operand of a line (R74). -/
def colourOperand (c : RgbColor) : AsmOperand := .colour c.r.toNat c.g.toNat c.b.toNat

/-- The operands of a C-PIX line: "in the text x comes before y" (R74). -/
def pixOperands (v : Variant) (x y : Coord) (c : RgbColor) : List AsmOperand :=
  [.variant v, .number x.toNat, .number y.toNat, colourOperand c]

/-- The line of an operation (R74). -/
def disassemble (i : Instr) : AsmLine :=
  { mnemonic := i.mnemonic,
    operands := match i with
      | .pack v c => [.variant v, colourOperand c]
      | .unpack v p => [.variant v, .packed p.toNat]
      | .dithN v x y c => pixOperands v x y c
      | .dithO v x y c => pixOperands v x y c
      | .dithS v x y c => pixOperands v x y c
      | .quantN v x y c => pixOperands v x y c
      | .quantO v x y c => pixOperands v x y c
      | .quantS v x y c => pixOperands v x y c
      | .scd5 k => [.number k.toNat]
      | .scd6 k => [.number k.toNat]
      | .scu5 b => [.number b.toNat]
      | .scu6 b => [.number b.toNat] }

/-- The name of a row in the text (R69, R74). -/
def mnemonicText : Mnemonic → List Char
  | .pack => ['P', 'A', 'C', 'K']
  | .unpack => ['U', 'N', 'P', 'A', 'C', 'K']
  | .dithN => ['D', 'I', 'T', 'H', '.', 'N']
  | .dithO => ['D', 'I', 'T', 'H', '.', 'O']
  | .dithS => ['D', 'I', 'T', 'H', '.', 'S']
  | .quantN => ['Q', 'U', 'A', 'N', 'T', '.', 'N']
  | .quantO => ['Q', 'U', 'A', 'N', 'T', '.', 'O']
  | .quantS => ['Q', 'U', 'A', 'N', 'T', '.', 'S']
  | .scd5 => ['S', 'C', 'D', '5']
  | .scd6 => ['S', 'C', 'D', '6']
  | .scu5 => ['S', 'C', 'U', '5']
  | .scu6 => ['S', 'C', 'U', '6']

/-- The twelve mnemonics, in the order of rule R69. -/
def allMnemonics : List Mnemonic :=
  [.pack, .unpack, .dithN, .dithO, .dithS, .quantN, .quantO, .quantS, .scd5, .scd6, .scu5, .scu6]

/-- The row a name in the text stands for. -/
def mnemonicOfText (cs : List Char) : Option Mnemonic := allMnemonics.find? (fun m => mnemonicText m == cs)

/-- A digit's character: 0..9, then A..F. -/
def digitChar (d : Nat) : Char := if d < 10 then Char.ofNat (48 + d) else Char.ofNat (55 + d)

/-- A character's digit: 0..9, A..F or a..f. -/
def charDigit (c : Char) : Option Nat :=
  let n := c.toNat
  if 48 ≤ n ∧ n ≤ 57 then some (n - 48)
  else if 65 ≤ n ∧ n ≤ 70 then some (n - 55)
  else if 97 ≤ n ∧ n ≤ 102 then some (n - 87)
  else none

/-- The last `fuel` digits of n in a base, leading zeros left out. -/
def digitsFuel (base : Nat) : Nat → Nat → List Char
  | 0, _ => []
  | fuel + 1, n => if n < base then [digitChar n] else digitsFuel base fuel (n / base) ++ [digitChar (n % base)]

/-- A number of the text: at most 24 bits occur, so eight decimal digits are enough. -/
def decimalText (n : Nat) : List Char := digitsFuel 10 8 n

/-- `0x` and four hexadecimal digits (R74). -/
def packedText (n : Nat) : List Char :=
  ['0', 'x', digitChar (n / 4096 % 16), digitChar (n / 256 % 16), digitChar (n / 16 % 16), digitChar (n % 16)]

/-- The number a list of digits of a base stands for; none where a character is no digit of it. -/
def numberFrom (base : Nat) : Nat → List Char → Option Nat
  | acc, [] => some acc
  | acc, c :: cs =>
      match charDigit c with
      | none => none
      | some d => if d < base then numberFrom base (acc * base + d) cs else none

/-- A decimal integer: at least one digit. -/
def decimalOfText (cs : List Char) : Option Nat := if cs.isEmpty then none else numberFrom 10 0 cs

/-- A colour's text `(r,g,b)` (R74). -/
def colourText (r g b : Nat) : List Char :=
  ['('] ++ decimalText r ++ [','] ++ decimalText g ++ [','] ++ decimalText b ++ [')']

/-- An operand's text (R74). -/
def operandText : AsmOperand → List Char
  | .variant .v15 => ['v', '1', '5']
  | .variant .v16 => ['v', '1', '6']
  | .number n => decimalText n
  | .colour r g b => colourText r g b
  | .packed n => packedText n

/-- Operands separated by a comma and a space (R74). -/
def operandsText : List AsmOperand → List Char
  | [] => []
  | [o] => operandText o
  | o :: os => operandText o ++ [',', ' '] ++ operandsText os

/-- A line's text: `MNEMONIC operand, operand, ...` (R74). -/
def lineText (l : AsmLine) : List Char := mnemonicText l.mnemonic ++ [' '] ++ operandsText l.operands

/-- The characters of a text that are not spaces. -/
def dropSpaces (cs : List Char) : List Char := cs.filter (fun c => c != ' ')

/-- A text cut at the commas that stand outside parentheses; `depth` counts the open ones. -/
def splitOperands : Nat → List Char → List Char → List (List Char)
  | _, acc, [] => [acc.reverse]
  | depth, acc, c :: cs =>
      if c = ',' ∧ depth = 0 then acc.reverse :: splitOperands 0 [] cs
      else if c = '(' then splitOperands (depth + 1) (c :: acc) cs
      else if c = ')' then splitOperands (depth - 1) (c :: acc) cs
      else splitOperands depth (c :: acc) cs

/-- The three integers between a colour's parentheses. -/
def colourOfText (cs : List Char) : Option AsmOperand :=
  match splitOperands 0 [] cs with
  | [r, g, b] =>
      match decimalOfText r, decimalOfText g, decimalOfText b with
      | some r, some g, some b => some (.colour r g b)
      | _, _, _ => none
  | _ => none

/-- An operand from its text with the spaces left out (R74). -/
def operandOfText : List Char → Option AsmOperand
  | ['v', '1', '5'] => some (.variant .v15)
  | ['v', '1', '6'] => some (.variant .v16)
  | '(' :: rest => if rest.getLast? = some ')' then colourOfText rest.dropLast else none
  | ['0', 'x', a, b, c, d] => (numberFrom 16 0 [a, b, c, d]).map AsmOperand.packed
  | cs => (decimalOfText cs).map AsmOperand.number

/-- The line a text stands for; none where it is no line of rule R74. -/
def lineOfText (cs : List Char) : Option AsmLine :=
  match mnemonicOfText (cs.takeWhile (fun c => c != ' ')) with
  | none => none
  | some m =>
      let rest := dropSpaces (cs.dropWhile (fun c => c != ' '))
      ((splitOperands 0 [] rest).mapM operandOfText).map (fun os => { mnemonic := m, operands := os })

/-- From text to a command word (R74); none where the assembler refuses. "It cannot produce an illegal word." -/
def assembleText (cs : List Char) : Option Command :=
  match lineOfText cs with
  | none => none
  | some l => (assemble l).map encode

/-- The name of a pseudo-instruction (R75). -/
def qimgText : DitherPolicy → List Char
  | .none => ['Q', 'I', 'M', 'G', '.', 'N']
  | .ordered => ['Q', 'I', 'M', 'G', '.', 'O']
  | .stochastic => ['Q', 'I', 'M', 'G', '.', 'S']

/-- The pseudo-instruction line a text stands for (R75): `QIMG.p v, w, h, buf`. -/
def qimgLineOfText (cs : List Char) : Option QimgLine :=
  let name := cs.takeWhile (fun c => c != ' ')
  let rest := dropSpaces (cs.dropWhile (fun c => c != ' '))
  match [DitherPolicy.none, .ordered, .stochastic].find? (fun p => qimgText p == name), splitOperands 0 [] rest with
  | some p, [v, w, h, buf] =>
      match operandOfText v, decimalOfText w, decimalOfText h with
      | some (.variant v), some w, some h => some { policy := p, variant := v, width := w, height := h, buf := buf }
      | _, _, _ => none
  | _, _ => none

/-- The image a well-formed QIMG line names; none where w or h is out of range (R75). -/
def imageOfLine (l : QimgLine) : Option ImageMetadata :=
  if l.wellFormed then
    some { variant := l.variant, width := BitVec.ofNat 16 l.width, height := BitVec.ofNat 16 l.height }
  else none

/-- The textual form of a response to an operation (R74). None where the status is never produced (R182). -/
def responseText (m : Mnemonic) (r : Response) : Option (List Char) :=
  let d := Response.dataField r
  if Response.statusField r = statusOk then
    some (['O', 'K', ' '] ++ match m with
      | .pack => packedText d.toNat
      | .scd5 | .scd6 | .scu5 | .scu6 => decimalText d.toNat
      | .unpack | .dithN | .dithO | .dithS | .quantN | .quantO | .quantS =>
          colourText (colourOfData d).r.toNat (colourOfData d).g.toNat (colourOfData d).b.toNat)
  else if Response.statusField r = ErrorKind.invalidValue.status then
    some ['E', 'R', 'R', ' ', 'I', 'n', 'v', 'a', 'l', 'i', 'd', 'V', 'a', 'l', 'u', 'e']
  else if Response.statusField r = ErrorKind.illegalCommand.status then
    some ['E', 'R', 'R', ' ', 'I', 'l', 'l', 'e', 'g', 'a', 'l', 'C', 'o', 'm', 'm', 'a', 'n', 'd']
  else none

end Sys2Proof.Machine
end

