-- ==== Sys2Proof/Machine/HostFile.lean ====
section
/-! DEFINITION. What the numbered rules say of the file around the block, so that a value in a file can be turned into
an operand and back: the byte order of a packed value (R44), its offset (R45), and the variant character (R65). The
Header Codec and the Pixel Stream Codec themselves are outside the block (R3). -/

namespace Sys2Proof.Machine

/-- The two bytes of a packed value in a file, the lower offset first (R44): `value[7:0]`, then `value[15:8]`. -/
def fileBytes (p : PackedValue) : List (BitVec 8) := [p.extractLsb' 0 8, p.extractLsb' 8 8]

/-- The packed value of two file bytes, the lower offset first (R44). -/
def ofFileBytes (lo hi : BitVec 8) : PackedValue := hi ++ lo

/-- The file offset of the lower byte of pixel i's value (R45): after a 12-byte header, with no padding. -/
def filePixelOffset (i : Nat) : Nat := 12 + 2 * i

/-- The variant character of a file (R65): `'5'` is Variant15 and `'6'` is Variant16; any other byte names none. -/
def variantOfByte (b : BitVec 8) : Option Variant :=
  if b = 0x35#8 then some .v15 else if b = 0x36#8 then some .v16 else none

/-- The variant character of a variant (R65). -/
def byteOfVariant : Variant → BitVec 8
  | .v15 => 0x35#8
  | .v16 => 0x36#8

/-- The bytes of an image's pixel values in a file, row-major, with no padding (R44, R45). -/
def fileOfPacked (ps : List PackedValue) : List (BitVec 8) := ps.flatMap fileBytes

end Sys2Proof.Machine
end

