-- ==== Sys2Proof/Machine/Transaction.lean ====
section
/-! DEFINITION. A transaction as the host sees it, one response word for one command word (R46, R48), the whole-image
sequence as a computation over transactions (R166, R167), and runs of several steps. -/

namespace Sys2Proof.Machine

/-- The response of a block with these parameters to one command word: what one step of a block that has just been
built delivers. None if that step stops. -/
def transact (prm : Params) (w : Command) : Option Response :=
  match step ((State.built prm).placeCommand w) with
  | .next t => t.responses.head?
  | .fault _ => none
  | .refused _ => none

/-- Why a whole-image sequence ends early. -/
inductive QimgStop where
  /-- a response has ST other than 0: QIMG returns Err(rsp.ST) (R169) -/
  | status (st : Status)
  /-- the buffer has no such element: not a buffer of `w*h` elements (R166) -/
  | noElement
  /-- the command was not answered, or was sent to a copy that is not there -/
  | noAnswer
deriving DecidableEq, Repr

/-- The pixel of element i (R41): x is the index within the row, y the row. -/
def pixelInstr (p : DitherPolicy) (im : ImageMetadata) (i : Nat) (c : RgbColor) : Instr :=
  quantInstr p im.variant (BitVec.ofNat 16 (i % im.width.toNat)) (BitVec.ofNat 16 (i / im.width.toNat)) c

/-- Element i taken, sent with its own coordinates (R216), and written back to the element it came from (R166). -/
def qimgPixel (prm : Params) (p : DitherPolicy) (im : ImageMetadata) (buf : List RgbColor) (i : Nat) :
    Except QimgStop (List RgbColor) :=
  match buf[i]? with
  | none => .error .noElement
  | some c =>
      match transact prm (encode (pixelInstr p im i c)) with
      | none => .error .noAnswer
      | some r =>
          if Response.statusField r = statusOk then .ok (buf.set i (colourOfData (Response.dataField r)))
          else .error (.status (Response.statusField r))

/-- The pixels of an image taken in any order the caller gives (R167). -/
def qimgInOrder (prm : Params) (p : DitherPolicy) (im : ImageMetadata) :
    List Nat → List RgbColor → Except QimgStop (List RgbColor)
  | [], buf => .ok buf
  | i :: rest, buf =>
      match qimgPixel prm p im buf i with
      | .ok buf' => qimgInOrder prm p im rest buf'
      | .error e => .error e

/-- QIMG (R166): every pixel in row-major order. -/
def qimg (prm : Params) (p : DitherPolicy) (im : ImageMetadata) (buf : List RgbColor) :
    Except QimgStop (List RgbColor) :=
  qimgInOrder prm p im (List.range (im.width.toNat * im.height.toNat)) buf

/-- Several steps; none if one of them stops. -/
def stepMany : Nat → State → Option State
  | 0, s => some s
  | n + 1, s =>
      match step s with
      | .next s' => stepMany n s'
      | .fault _ => none
      | .refused _ => none

end Sys2Proof.Machine
end

