-- ==== Sys2Proof/Machine/Sharing.lean ====
section
/-! DEFINITION. A system of several copies of the block (R6, R52, R194), and an image shared out over them (R52, R167):
the host gives each pixel's command to some copy, the copies step, and the host takes the responses of each copy in
order and writes each to the element it came from. In which order all this happens is the caller's, log entry 11. -/

namespace Sys2Proof.Machine

/-- A system of NREPL copies of the block (R6, R52): each has its own command port; NREPL is the list's length. -/
structure Replicas where
  copies : List State
deriving DecidableEq, Repr

/-- A system as it is built: NREPL copies with the same constants. -/
def Replicas.built (nrepl : Nat) (prm : Params) : Replicas := { copies := List.replicate nrepl (State.built prm) }

/-- There is at least one copy, and the copies share the constants (R52: "equal in all of them"). -/
def Replicas.sharing (r : Replicas) (prm : Params) : Prop :=
  r.copies ≠ [] ∧ ∀ s ∈ r.copies, s.params = prm

/-- The host gives a command to copy k. -/
def Replicas.issueTo (r : Replicas) (k : Nat) (w : Command) : Replicas :=
  match r.copies[k]? with
  | none => r
  | some s => { copies := r.copies.set k (s.issue w) }

/-- Copy k makes one step; the others do not change (R194: they "send each other nothing"). None where there is no
such copy, or it stops. -/
def Replicas.stepCopy (r : Replicas) (k : Nat) : Option Replicas :=
  match r.copies[k]? with
  | none => none
  | some s =>
      match step s with
      | .next s' => some { copies := r.copies.set k s' }
      | .fault _ => none
      | .refused _ => none

/-- The host takes the oldest response of copy k (R49, R215). None where there is no such copy, or no response. -/
def Replicas.takeFrom (r : Replicas) (k : Nat) : Option (Response × Replicas) :=
  match r.copies[k]? with
  | none => none
  | some s =>
      match s.takeResponse with
      | none => none
      | some (rsp, s') => some (rsp, { copies := r.copies.set k s' })

/-- A command that a copy has been given and whose response the host has not taken: the element whose pixel it
quantizes (none for a command of other work), and the copy. -/
structure OpenCommand where
  element : Option Nat
  copy : Nat
deriving DecidableEq, Repr

/-- An image being shared out: the copies with their own ports, the host's count of open commands, the oldest first
(R215: it "matches responses to commands by position"), and its PixelBuffer. -/
structure Sharing where
  system : Replicas
  given : List OpenCommand
  buffer : List RgbColor
deriving DecidableEq, Repr

/-- The commands of other work that the copies have been given before: one for each response that waits at a copy and
each command that is pending there. -/
def earlierCommands (copies : List State) : List OpenCommand :=
  copies.zipIdx.flatMap (fun e =>
    List.replicate (e.1.responses.length + e.1.pending.length) { element := none, copy := e.2 })

/-- The start of a sharing: the copies as they are, whatever their ports hold. -/
def Sharing.start (r : Replicas) (buf : List RgbColor) : Sharing :=
  { system := r, given := earlierCommands r.copies, buffer := buf }

/-- What can happen next in a sharing. -/
inductive ShareMove where
  /-- the host gives the command of element i to copy k -/
  | give (i k : Nat)
  /-- copy k makes one step -/
  | run (k : Nat)
  /-- the host takes a response from copy k -/
  | take (k : Nat)
deriving DecidableEq, Repr

/-- The element whose command a move gives. -/
def ShareMove.element : ShareMove → Option Nat
  | .give i _ => some i
  | .run _ => none
  | .take _ => none

/-- The copy a move concerns. -/
def ShareMove.copy : ShareMove → Nat
  | .give _ k => k
  | .run k => k
  | .take k => k

/-- The host reads element i and gives `QUANT.p V, x, y, buf[i]`, with the element's own coordinates (R216), to copy k. -/
def Sharing.give (p : DitherPolicy) (im : ImageMetadata) (i k : Nat) (h : Sharing) : Except QimgStop Sharing :=
  if h.system.copies.length ≤ k then .error .noAnswer
  else match h.buffer[i]? with
    | none => .error .noElement
    | some c => .ok { h with system := h.system.issueTo k (encode (pixelInstr p im i c)),
                             given := h.given ++ [{ element := some i, copy := k }] }

/-- Copy k makes one step. -/
def Sharing.run (k : Nat) (h : Sharing) : Except QimgStop Sharing :=
  match h.system.stepCopy k with
  | none => .error .noAnswer
  | some r => .ok { h with system := r }

/-- The host takes the oldest response of copy k, which belongs to the oldest open command of that copy (R49, R215).
A colour is written to the element it came from (R166), an error ends the sequence (R169); a response to other work is
put aside. With nothing to take the host waits. -/
def Sharing.take (k : Nat) (h : Sharing) : Except QimgStop Sharing :=
  match h.system.takeFrom k, h.given.find? (fun o => o.copy == k) with
  | some (rsp, r), some o =>
      let taken : Sharing := { h with system := r, given := h.given.eraseP (fun o => o.copy == k) }
      match o.element with
      | none => .ok taken
      | some i =>
          if Response.statusField rsp = statusOk then
            .ok { taken with buffer := h.buffer.set i (colourOfData (Response.dataField rsp)) }
          else .error (.status (Response.statusField rsp))
  | _, _ => .ok h

/-- One move. -/
def Sharing.move (p : DitherPolicy) (im : ImageMetadata) (m : ShareMove) (h : Sharing) : Except QimgStop Sharing :=
  match m with
  | .give i k => h.give p im i k
  | .run k => h.run k
  | .take k => h.take k

/-- Several moves, in any interleaving the caller gives. -/
def Sharing.moves (p : DitherPolicy) (im : ImageMetadata) : List ShareMove → Sharing → Except QimgStop Sharing
  | [], h => .ok h
  | m :: rest, h =>
      match h.move p im m with
      | .ok h' => Sharing.moves p im rest h'
      | .error e => .error e

/-- The moves that settle every open command, the oldest first: its copy steps, and the host takes a response. -/
def Sharing.settling (h : Sharing) : List ShareMove := h.given.flatMap (fun o => [.run o.copy, .take o.copy])

/-- An image shared out over the copies (R52, R167): a list of jobs, each an element index and the copy it is sent to,
given in any order and then settled. -/
def qimgOnCopies (r : Replicas) (p : DitherPolicy) (im : ImageMetadata) (jobs : List (Nat × Nat)) (buf : List RgbColor) :
    Except QimgStop (List RgbColor) :=
  match Sharing.moves p im (jobs.map (fun j => .give j.1 j.2)) (Sharing.start r buf) with
  | .error e => .error e
  | .ok h =>
      match Sharing.moves p im h.settling h with
      | .error e => .error e
      | .ok settled => .ok settled.buffer

end Sys2Proof.Machine
end

