-- ==== Sys2Proof/Safety.lean ====
section
/-! DEFINITION. What a safe state is, and the terms the statements are written in: the layouts of the words as plain
numbers (rule R7: `a << n` multiplies by 2^n, and `a | b` of fields that do not overlap is addition), so that a
statement does not lean on the bit-vector layouts of the model. -/

namespace Sys2Proof

/-- The V field as a number (R65). -/
def Variant.num : Variant → Nat
  | .v15 => 0
  | .v16 => 1

/-- A colour's DATA word as a number (R66): `r | g << 8 | b << 16`. -/
def colourNum (c : RgbColor) : Nat := c.r.toNat + 256 * c.g.toNat + 65536 * c.b.toNat

/-- A command word as a number (R61): the fields at bits 60, 58, 57, 40, 24 and 0; Z is zero. -/
def commandNum (op pol v y x data : Nat) : Nat :=
  op * 2 ^ 60 + pol * 2 ^ 58 + v * 2 ^ 57 + y * 2 ^ 40 + x * 2 ^ 24 + data

/-- A response word is one the block can produce (R67, R180 to R182): bits 27:24 zero, ST 0, 1 or 2, and DATA zero
when ST is not 0. -/
def LegalResponse (r : Response) : Prop :=
  Response.zeroField r = 0 ∧
    (Response.statusField r = 0 ∨ ((Response.statusField r = 1 ∨ Response.statusField r = 2) ∧ Response.dataField r = 0))

namespace Machine

/-- The state after the block has answered with this response word, and nothing else has changed. -/
def State.answered (s : State) (rsp : Nat) : State := { s with responses := s.responses ++ [BitVec.ofNat 32 rsp] }

/-- The host's side of the state fits the loop of rule R166: while a sequence is under way the buffer has `w*h`
elements, the loop variables are in range, and at most the one transaction of the pixel at hand is open, with a QUANT
command or with a response of status OK. No sequence has failed (R169: "with a conforming host this cannot happen"). -/
def State.HostCoherent (s : State) : Prop :=
  match s.phase with
  | .idle => True
  | .finished => True
  | .failed _ => False
  | .issuing q =>
      s.buffer.length = q.image.width.toNat * q.image.height.toNat ∧ (q.x < q.image.width.toNat ∨ q.image.width = 0) ∧
        s.pending = [] ∧ s.responses = []
  | .waiting q =>
      s.buffer.length = q.image.width.toNat * q.image.height.toNat ∧ q.x < q.image.width.toNat ∧
        q.y < q.image.height.toNat ∧
        ((∃ c, s.buffer[runIndex q]? = some c ∧ s.pending = [runCommand q c] ∧ s.responses = []) ∨
          (s.pending = [] ∧ ∃ d, s.responses = [okResponse d]))

/-- A safe state: the tables obey what R26 requires, every response delivered is one the block can produce, and the
host's side is coherent. -/
structure State.Inv (s : State) : Prop where
  tables : s.params.tables.Lawful
  responses : ∀ r ∈ s.responses, LegalResponse r
  host : s.HostCoherent

/-- A run of n steps is safe: no step stops. -/
def State.RunsSafely (n : Nat) (s : State) : Prop := (stepMany n s).isSome

end Machine

end Sys2Proof
end

