-- ==== Sys2Proof/Certificates/Slice0/Obligations.lean ====
section
/-! DEFINITION. The statements for the provers. Each docstring names the rule of spec/ a statement formalises, or says
that it is derived. `State.answered s n` is s with the response word n delivered and NOTHING else changed, so that an
equation with it says the whole frame. -/

open Sys2Proof Sys2Proof.Machine

/-! ### State, reset and configuration -/

/-- R33: at reset the five tables hold the printed contents, and no step changes them, so they hold them "at every
later time". -/
def Obligations.TablesAreConstant : Prop :=
  State.reset.params.tables = defaultTables ∧
    (State.reset.params.tables.down5.toList.map BitVec.toNat = down5Rows ∧
      State.reset.params.tables.down6.toList.map BitVec.toNat = down6Rows ∧
      State.reset.params.tables.up5.toList.map BitVec.toNat = up5Rows ∧
      State.reset.params.tables.up6.toList.map BitVec.toNat = up6Rows ∧
      State.reset.params.tables.bayer.toList.map BitVec.toNat = bayerRows) ∧
    ∀ s t : State, step s = .next t → t.params = s.params

/-- R26, all six laws, of the tables the machine holds at reset: (a) fixed point, (b) nearest bucket on the normalised
scale, (c) the generating formulas, (d) no ties, (e) end points and order, (f) the other reading of "nearest". -/
def Obligations.ResetTablesObeyLaws : Prop :=
  let t := State.reset.params.tables
  ((∀ b : Bucket5, t.down5At (t.up5At b) = b) ∧ ∀ b : Bucket6, t.down6At (t.up6At b) = b) ∧
  ((∀ (i : Channel) (b : Bucket5), (255 * ((t.down5At i).toNat : Int) - 31 * i.toNat).natAbs ≤ (255 * (b.toNat : Int) - 31 * i.toNat).natAbs) ∧
    ∀ (i : Channel) (b : Bucket6), (255 * ((t.down6At i).toNat : Int) - 63 * i.toNat).natAbs ≤ (255 * (b.toNat : Int) - 63 * i.toNat).natAbs) ∧
  ((∀ i : Channel, (t.down5At i).toNat = (2 * i.toNat * 31 + 255) / 510 ∧ (t.down6At i).toNat = (2 * i.toNat * 63 + 255) / 510) ∧
    (∀ b : Bucket5, (t.up5At b).toNat = (2 * b.toNat * 255 + 31) / (2 * 31)) ∧
    ∀ b : Bucket6, (t.up6At b).toNat = (2 * b.toNat * 255 + 63) / (2 * 63)) ∧
  (∀ i j : Nat, 2 * i * 31 ≠ 255 * (2 * j + 1) ∧ 2 * i * 63 ≠ 255 * (2 * j + 1) ∧ 510 * i ≠ 31 * (2 * j + 1) ∧ 510 * i ≠ 63 * (2 * j + 1)) ∧
  ((t.down5At 0 = 0 ∧ t.down5At 255 = 31 ∧ t.up5At 0 = 0 ∧ t.up5At 31 = 255) ∧
    (t.down6At 0 = 0 ∧ t.down6At 255 = 63 ∧ t.up6At 0 = 0 ∧ t.up6At 63 = 255) ∧
    (∀ i j : Channel, i ≤ j → t.down5At i ≤ t.down5At j ∧ t.down6At i ≤ t.down6At j) ∧
    (∀ a b : Bucket5, a < b → t.up5At a < t.up5At b) ∧ ∀ a b : Bucket6, a < b → t.up6At a < t.up6At b) ∧
  ((∀ (i : Channel) (b : Bucket5), (((t.up5At (t.down5At i)).toNat : Int) - i.toNat).natAbs ≤ (((t.up5At b).toNat : Int) - i.toNat).natAbs) ∧
    ∀ (i : Channel) (b : Bucket6), (((t.up6At (t.down6At i)).toNat : Int) - i.toNat).natAbs ≤ (((t.up6At b).toNat : Int) - i.toNat).natAbs)

/-- R25, of the matrix the machine holds at reset: its printed contents, entry `8*row + col` at row `row` and column
`col`; it is generated by the recursion from `M2 = [[0, 2], [3, 1]]` (each entry is `4*Mn + M2` of its quadrant, applied
twice), and every value 0..63 occurs exactly once. -/
def Obligations.ResetMatrixIsBayer : Prop :=
  let m2 : Nat → Nat → Nat := fun row col => if row = 0 then 2 * col else 3 - 2 * col
  State.reset.params.tables.bayer.toList.map BitVec.toNat = bayerRows ∧
  (∀ row col : BitVec 3, bayerRows[8 * row.toNat + col.toNat]? = some (State.reset.params.tables.bayerAt row col).toNat) ∧
  (∀ row col : BitVec 3,
    (State.reset.params.tables.bayerAt row col).toNat =
      4 * (4 * m2 (row.toNat % 2) (col.toNat % 2) + m2 (row.toNat / 2 % 2) (col.toNat / 2 % 2)) +
        m2 (row.toNat / 4) (col.toNat / 4)) ∧
  ∀ k : Threshold, ∃ row col : BitVec 3, State.reset.params.tables.bayerAt row col = k ∧
    ∀ row' col' : BitVec 3, State.reset.params.tables.bayerAt row' col' = k → row' = row ∧ col' = col

/-- R210, with the model's own fields: after reset nothing is pending or delivered and the tables are lawful. The
values of the host's fields are the model's choice (log entry 7). -/
def Obligations.ResetIsSafe : Prop :=
  State.reset.Inv ∧ State.reset.pending = [] ∧ State.reset.responses = []

/-! ### Encoding and decoding -/

/-- Decode and encode agree: every operation with every operand at every value. -/
def Obligations.DecodeEncode : Prop := ∀ i : Instr, decode (encode i) = .ok i

/-- Encode and decode agree: a word that decodes is the word of the operation it decodes to, so that each operation
has exactly one word. -/
def Obligations.EncodeDecode : Prop := ∀ (w : Command) (i : Instr), decode w = .ok i → encode i = w

/-- R61, R63, R65, R66: the encoder's word as a number, field by field, for each of the twelve operations. -/
def Obligations.EncodedWordIsFieldSum : Prop :=
  (∀ v c, (encode (.pack v c)).toNat = commandNum 1 0 v.num 0 0 (colourNum c)) ∧
  (∀ v (p : PackedValue), (encode (.unpack v p)).toNat = commandNum 2 0 v.num 0 0 p.toNat) ∧
  (∀ v (x y : Coord) c, (encode (.dithN v x y c)).toNat = commandNum 3 0 v.num y.toNat x.toNat (colourNum c)) ∧
  (∀ v (x y : Coord) c, (encode (.dithO v x y c)).toNat = commandNum 3 1 v.num y.toNat x.toNat (colourNum c)) ∧
  (∀ v (x y : Coord) c, (encode (.dithS v x y c)).toNat = commandNum 3 2 v.num y.toNat x.toNat (colourNum c)) ∧
  (∀ v (x y : Coord) c, (encode (.quantN v x y c)).toNat = commandNum 4 0 v.num y.toNat x.toNat (colourNum c)) ∧
  (∀ v (x y : Coord) c, (encode (.quantO v x y c)).toNat = commandNum 4 1 v.num y.toNat x.toNat (colourNum c)) ∧
  (∀ v (x y : Coord) c, (encode (.quantS v x y c)).toNat = commandNum 4 2 v.num y.toNat x.toNat (colourNum c)) ∧
  (∀ i : Channel, (encode (.scd5 i)).toNat = commandNum 8 0 0 0 0 i.toNat) ∧
  (∀ i : Channel, (encode (.scd6 i)).toNat = commandNum 9 0 0 0 0 i.toNat) ∧
  (∀ b : Bucket5, (encode (.scu5 b)).toNat = commandNum 10 0 0 0 0 b.toNat) ∧
  ∀ b : Bucket6, (encode (.scu6 b)).toNat = commandNum 11 0 0 0 0 b.toNat

/-- R69: "No word matches two rows". -/
def Obligations.RowsDoNotOverlap : Prop :=
  ∀ (w : Command), ∀ r ∈ opTable, ∀ r' ∈ opTable, r.selects w = true → r'.selects w = true → r = r'

/-- R71: a command word is illegal in exactly the cases the rule lists: a reserved OP; OP 3 or 4 with POL 3; Z = 1;
a field the operation does not use that is not zero. An illegal word is answered with IllegalCommand and nothing else
is done. Bits: OP 63:60, POL 59:58, V 57, Z 56, Y 55:40, X 39:24, DATA 23:0. -/
def Obligations.IllegalWordsAreExactlyTheListed : Prop :=
  ∀ w : Command,
    let op := w.toNat / 2 ^ 60
    let pol := w.toNat / 2 ^ 58 % 4
    let v := w.toNat / 2 ^ 57 % 2
    let z := w.toNat / 2 ^ 56 % 2
    let yx := w.toNat / 2 ^ 24 % 2 ^ 32
    let data := w.toNat % 2 ^ 24
    (decode w = .error .illegalCommand ↔
      (op = 0 ∨ op = 5 ∨ op = 6 ∨ op = 7 ∨ 12 ≤ op) ∨ ((op = 3 ∨ op = 4) ∧ pol = 3) ∨ z = 1 ∨
        ((op = 1 ∨ op = 2) ∧ (pol ≠ 0 ∨ yx ≠ 0)) ∨ ((op = 8 ∨ op = 9 ∨ op = 10 ∨ op = 11) ∧ (pol ≠ 0 ∨ v ≠ 0 ∨ yx ≠ 0)) ∨
        (op = 2 ∧ 2 ^ 16 ≤ data) ∨ ((op = 8 ∨ op = 9) ∧ 2 ^ 8 ≤ data) ∨ (op = 10 ∧ 2 ^ 5 ≤ data) ∨ (op = 11 ∧ 2 ^ 6 ≤ data)) ∧
    ∀ (s : State) (rest : List Command), s.pending = w :: rest → decode w = .error .illegalCommand →
      step s = .next ({ s with pending := rest }.answered 0x20000000)

/-- R77: decoding is total, its answer is an operation or "illegal" and nothing else, and a word that matches a row is
that row's operation. -/
def Obligations.DecodingIsTotal : Prop :=
  ∀ w : Command,
    ((∃ i, decode w = .ok i) ∨ decode w = .error .illegalCommand) ∧
    (∀ r ∈ opTable, w &&& r.mask = r.pattern → ∃ i, decode w = .ok i ∧ i.mnemonic = r.mnemonic ∧ encode i = w) ∧
    ((∀ r ∈ opTable, w &&& r.mask ≠ r.pattern) → decode w = .error .illegalCommand)

/-- Decoding is right on words written out from the spec's encodings (sanity; vectors P20, U9, DN1, DO8, DS7, QN7,
T4, T31 of spec/95_test_vectors.md). -/
def Obligations.SampleWordsDecode : Prop :=
  decode 0x12000000003264C8 = .ok (.pack .v16 ⟨200, 100, 50⟩) ∧
  decode 0x2200000000001234 = .ok (.unpack .v16 0x1234) ∧
  decode 0x3000090005030201 = .ok (.dithN .v15 5 9 ⟨1, 2, 3⟩) ∧
  decode 0x36000200033264C8 = .ok (.dithO .v16 3 2 ⟨200, 100, 50⟩) ∧
  decode 0x3A000000023264C8 = .ok (.dithS .v16 2 0 ⟨200, 100, 50⟩) ∧
  decode 0x4000090009808080 = .ok (.quantN .v15 9 9 ⟨128, 128, 128⟩) ∧
  decode 0x800000000000000C = .ok (.scd5 12) ∧
  decode 0xB00000000000003F = .ok (.scu6 63)

/-! ### The machine's transactions -/

/-- A step runs the decoded operation: when the oldest command word on the port decodes to i, the step is exec of i
at the state from which that word has been taken. That the words given wait in a queue is the model's choice (log
entry 1). `withFetchWord` places a word so that the next step is its transaction. -/
def Obligations.StepRunsDecodedCommand : Prop :=
  (∀ (s : State) (w : Command) (rest : List Command) (i : Instr), s.pending = w :: rest → decode w = .ok i →
    step s = exec i { s with pending := rest }) ∧
  (∀ (s : State) (nbits n : Nat), step (s.withFetchWord nbits n) = transaction (BitVec.ofNat 64 (n % 2 ^ nbits)) s)

/-- R187: an error does four things and no more. Whatever command raises an error, the state after it is the state
before with that command taken and the one response `{ST, 0}` delivered behind the earlier ones. -/
def Obligations.ErrorEntryIsOneResponse : Prop :=
  (∀ (s : State) (e : ErrorKind), s.raise e = s.answered (match e with | .invalidValue => 0x10000000 | .illegalCommand => 0x20000000)) ∧
  ∀ (s : State) (w : Command) (rest : List Command) (t : State) (r : Response), s.pending = w :: rest → step s = .next t →
    t.responses = s.responses ++ [r] → Response.statusField r ≠ 0 →
      (r = 0x10000000 ∨ r = 0x20000000) ∧ t = { s with pending := rest, responses := s.responses ++ [r] }

/-- R183: which operation can raise what. InvalidValue comes from UNPACK with V = 0 and bit 15 of its value set and
from no other operation; IllegalCommand from no decoded operation, and always from a word that decodes to none. -/
def Obligations.WhichOperationRaisesWhat : Prop :=
  (∀ (i : Instr) (s : State), ∃ r : Response, exec i s = .next { s with responses := s.responses ++ [r] } ∧
    (Response.statusField r = 1 ↔ ∃ p : PackedValue, i = .unpack .v15 p ∧ 0x8000 ≤ p.toNat) ∧
    (Response.statusField r ≠ 1 → Response.statusField r = 0)) ∧
  ∀ (w : Command) (s : State), (∀ i, decode w ≠ .ok i) →
    ∃ r : Response, transaction w s = .next { s with responses := s.responses ++ [r] } ∧ Response.statusField r = 2

/-- R186: at most one error per transaction, decode errors first: a word that matches no row is answered
IllegalCommand whatever its value field holds; an UNPACK word with bit 15 of its value set and nothing else wrong
raises InvalidValue under Variant15. -/
def Obligations.DecodeErrorsComeFirst : Prop :=
  (∀ (w : Command) (s : State), (∀ r ∈ opTable, w &&& r.mask ≠ r.pattern) → transaction w s = .next (s.answered 0x20000000)) ∧
  (∀ (p : Nat) (s : State), 0x8000 ≤ p → p < 0x10000 →
    transaction (BitVec.ofNat 64 (2 * 2 ^ 60 + p)) s = .next (s.answered 0x10000000) ∧
    ∀ stray : Nat, 16 ≤ stray → stray < 60 → stray ≠ 57 →
      transaction (BitVec.ofNat 64 (2 * 2 ^ 60 + p + 2 ^ stray)) s = .next (s.answered 0x20000000))

/-- R67: every response the block delivers has bits 27:24 zero, ST 0, 1 or 2, and DATA zero when ST is not 0. -/
def Obligations.EveryResponseIsLegal : Prop :=
  ∀ (w : Command) (s t : State), transaction w s = .next t → ∃ r, t.responses = s.responses ++ [r] ∧ LegalResponse r

/-- R48: the response to a command is a function of that command word and of the constants alone: in any two states
with the same parameters, the same command is answered with the same response, whatever else the states hold; and
nothing but the port changes. -/
def Obligations.ResponseDependsOnCommandOnly : Prop :=
  ∀ (prm : Params) (w : Command), ∃ r : Response, transact prm w = some r ∧
    ∀ (s : State) (rest : List Command), s.params = prm → s.pending = w :: rest →
      step s = .next { s with pending := rest, responses := s.responses ++ [r] }

/-- Derived from R49 and R221: on one port every command is answered, one response for each, in the order the commands
were given, and a run of finitely many commands ends. That the commands wait in a queue, and that n steps answer n of
them, is the model's choice (log entries 1 and 14): R221 says only that each is answered after a finite time. -/
def Obligations.CommandsAnsweredInOrder : Prop :=
  ∀ s : State, ∃ rs : List Response, rs.length = s.pending.length ∧
    stepMany s.pending.length s = some { s with pending := [], responses := s.responses ++ rs } ∧
    ∀ (i : Nat) (w : Command), s.pending[i]? = some w → ∃ r, rs[i]? = some r ∧ transact s.params w = some r

/-- R188: the command after a failed one is decoded and executed like any other, and reissuing the failed command
gives the same error again. -/
def Obligations.ErrorsLeaveNothingBehind : Prop :=
  ∀ (s : State) (w w' : Command) (rest : List Command) (r : Response), s.pending = w :: w' :: rest →
    transact s.params w = some r → Response.statusField r ≠ 0 →
    ∃ r', transact s.params w' = some r' ∧ (w' = w → r' = r) ∧
      stepMany 2 s = some { s with pending := rest, responses := s.responses ++ [r, r'] }

/-- R185, R28, R192: nothing happens except in answer to a command, and which command comes next is the host's
business: with no command pending and no sequence under way, a step changes nothing. That such a step is taken at all
is the model's choice (log entry 3). -/
def Obligations.NothingHappensUnasked : Prop :=
  ∀ s : State, s.pending = [] → s.phase.atRest = true → step s = .next s

/-! ### The Value Packer -/

/-- R90: PACK. The result for every operand and state; the encoding; no error; the corner cases and the example, with
this hardware's tables; in how many of the 256 inputs the down tables differ from a shift. -/
def Obligations.PackAnswersPackedValue : Prop :=
  (∀ (c : RgbColor) (s : State),
    exec (.pack .v15 c) s = .next (s.answered ((s.params.tables.down5At c.r).toNat + (s.params.tables.down5At c.g).toNat * 2 ^ 5 +
      (s.params.tables.down5At c.b).toNat * 2 ^ 10)) ∧
    exec (.pack .v16 c) s = .next (s.answered ((s.params.tables.down5At c.r).toNat + (s.params.tables.down6At c.g).toNat * 2 ^ 5 +
      (s.params.tables.down5At c.b).toNat * 2 ^ 11))) ∧
  (∀ v c, decode (BitVec.ofNat 64 (commandNum 1 0 v.num 0 0 (colourNum c))) = .ok (.pack v c)) ∧
  (∀ s : State, s.params.tables = defaultTables →
    (∀ v, exec (.pack v ⟨0, 0, 0⟩) s = .next (s.answered 0)) ∧
    exec (.pack .v15 ⟨255, 255, 255⟩) s = .next (s.answered 0x7FFF) ∧
    exec (.pack .v16 ⟨255, 255, 255⟩) s = .next (s.answered 0xFFFF) ∧
    exec (.pack .v16 ⟨200, 100, 50⟩) s = .next (s.answered 0x3338)) ∧
  (∀ r : Channel, r.toNat ≤ 4 → defaultTables.down5At r = 0) ∧
  ((List.range 256).filter (fun r => (defaultTables.down5At (BitVec.ofNat 8 r)).toNat ≠ r / 8)).length = 52 ∧
  ((List.range 256).filter (fun g => (defaultTables.down6At (BitVec.ofNat 8 g)).toNat ≠ g / 4)).length = 42

/-- R91: UNPACK. Under Variant15 InvalidValue exactly for the values 0x8000 and above, a colour from the up tables
otherwise; under Variant16 always a colour; the encoding; distinct legal values give distinct colours; the example. -/
def Obligations.UnpackAnswersColour : Prop :=
  (∀ (p : PackedValue) (s : State),
    (0x8000 ≤ p.toNat → exec (.unpack .v15 p) s = .next (s.answered 0x10000000)) ∧
    (p.toNat < 0x8000 → exec (.unpack .v15 p) s = .next (s.answered (
      (s.params.tables.up5At (BitVec.ofNat 5 (p.toNat % 32))).toNat + (s.params.tables.up5At (BitVec.ofNat 5 (p.toNat / 2 ^ 5 % 32))).toNat * 2 ^ 8 +
        (s.params.tables.up5At (BitVec.ofNat 5 (p.toNat / 2 ^ 10 % 32))).toNat * 2 ^ 16))) ∧
    exec (.unpack .v16 p) s = .next (s.answered (
      (s.params.tables.up5At (BitVec.ofNat 5 (p.toNat % 32))).toNat + (s.params.tables.up6At (BitVec.ofNat 6 (p.toNat / 2 ^ 5 % 64))).toNat * 2 ^ 8 +
        (s.params.tables.up5At (BitVec.ofNat 5 (p.toNat / 2 ^ 11 % 32))).toNat * 2 ^ 16))) ∧
  (∀ v (p : PackedValue), decode (BitVec.ofNat 64 (commandNum 2 0 v.num 0 0 p.toNat)) = .ok (.unpack v p)) ∧
  (∀ (t : Tables) (v : Variant) (p p' : PackedValue) (c : RgbColor), t.Lawful →
    unpackValue t v p = .ok c → unpackValue t v p' = .ok c → p = p') ∧
  (∀ s : State, s.params.tables = defaultTables → exec (.unpack .v16 0x3338) s = .next (s.answered 0x003165C5)) ∧
  ∀ s : State, exec (.unpack .v15 0x8000) s = .next (s.answered 0x10000000)

/-- R92: for every colour and both variants, `unpack(pack(c)) = unpack(pack(unpack(pack(c))))`; unpack does not fail. -/
def Obligations.QuantizationIsIdempotent : Prop :=
  ∀ (t : Tables) (v : Variant) (c : RgbColor), t.Lawful →
    ∃ c', unpackValue t v (packValue t v c) = .ok c' ∧ unpackValue t v (packValue t v c') = .ok c'

/-- R93: PACK undoes UNPACK on every legal value, and the converse holds exactly for a colour whose every channel is a
representative. -/
def Obligations.PackUndoesUnpack : Prop :=
  (∀ (t : Tables) (v : Variant) (p : PackedValue) (c : RgbColor), t.Lawful → unpackValue t v p = .ok c → packValue t v c = p) ∧
  ∀ (t : Tables) (v : Variant) (c : RgbColor), t.Lawful →
    (unpackValue t v (packValue t v c) = .ok c ↔
      (∃ b, c.r = t.up5At b) ∧ (match v with | .v15 => ∃ b, c.g = t.up5At b | .v16 => ∃ b, c.g = t.up6At b) ∧ ∃ b, c.b = t.up5At b)

/-- R94: PACK never sets the reserved bit, so that UNPACK of a value PACK made never raises InvalidValue. For any
tables. -/
def Obligations.PackNeverSetsReservedBit : Prop :=
  ∀ (t : Tables) (c : RgbColor), (packValue t .v15 c).getLsbD 15 = false ∧ ∃ c', unpackValue t .v15 (packValue t .v15 c) = .ok c'

/-- R95: the colour after a round trip is `UPn[DOWNn[channel]]` channel by channel, and with this hardware's tables no
round trip changes a 5-bit channel by more than 4 or a 6-bit channel by more than 2; both bounds are reached. -/
def Obligations.RoundTripColour : Prop :=
  (∀ (t : Tables) (c : RgbColor),
    unpackValue t .v15 (packValue t .v15 c) = .ok ⟨t.up5At (t.down5At c.r), t.up5At (t.down5At c.g), t.up5At (t.down5At c.b)⟩ ∧
    unpackValue t .v16 (packValue t .v16 c) = .ok ⟨t.up5At (t.down5At c.r), t.up6At (t.down6At c.g), t.up5At (t.down5At c.b)⟩) ∧
  (∀ i : Channel, (((defaultTables.up5At (defaultTables.down5At i)).toNat : Int) - i.toNat).natAbs ≤ 4 ∧
    (((defaultTables.up6At (defaultTables.down6At i)).toNat : Int) - i.toNat).natAbs ≤ 2) ∧
  (∃ i : Channel, (((defaultTables.up5At (defaultTables.down5At i)).toNat : Int) - i.toNat).natAbs = 4) ∧
  ∃ i : Channel, (((defaultTables.up6At (defaultTables.down6At i)).toNat : Int) - i.toNat).natAbs = 2

/-! ### The Lookup Tables -/

/-- R110: SCD5. The result for every index and state; the encoding; a nonzero bit in `CMD[59:8]` makes the word
illegal; the corner cases and the example, with this hardware's tables. -/
def Obligations.Scd5ReadsDown5 : Prop :=
  (∀ (i : Channel) (s : State), exec (.scd5 i) s = .next (s.answered (s.params.tables.down5At i).toNat)) ∧
  (∀ i : Channel, decode (BitVec.ofNat 64 (8 * 2 ^ 60 + i.toNat)) = .ok (.scd5 i)) ∧
  (∀ w : Command, w.toNat / 2 ^ 60 = 8 → w.toNat / 2 ^ 8 % 2 ^ 52 ≠ 0 → decode w = .error .illegalCommand) ∧
  ∀ s : State, s.params.tables = defaultTables →
    ∀ e ∈ [(0, 0), (255, 31), (4, 0), (5, 1), (127, 15), (128, 16), (200, 24)],
      exec (.scd5 (BitVec.ofNat 8 e.1)) s = .next (s.answered e.2)

/-- R111: SCD6. -/
def Obligations.Scd6ReadsDown6 : Prop :=
  (∀ (i : Channel) (s : State), exec (.scd6 i) s = .next (s.answered (s.params.tables.down6At i).toNat)) ∧
  (∀ i : Channel, decode (BitVec.ofNat 64 (9 * 2 ^ 60 + i.toNat)) = .ok (.scd6 i)) ∧
  (∀ w : Command, w.toNat / 2 ^ 60 = 9 → w.toNat / 2 ^ 8 % 2 ^ 52 ≠ 0 → decode w = .error .illegalCommand) ∧
  ∀ s : State, s.params.tables = defaultTables →
    ∀ e ∈ [(0, 0), (255, 63), (2, 0), (3, 1), (127, 31), (128, 32), (100, 25)],
      exec (.scd6 (BitVec.ofNat 8 e.1)) s = .next (s.answered e.2)

/-- R112: SCU5. A bucket of 32 or more cannot be encoded: the word would be illegal. -/
def Obligations.Scu5ReadsUp5 : Prop :=
  (∀ (b : Bucket5) (s : State), exec (.scu5 b) s = .next (s.answered (s.params.tables.up5At b).toNat)) ∧
  (∀ b : Bucket5, decode (BitVec.ofNat 64 (10 * 2 ^ 60 + b.toNat)) = .ok (.scu5 b)) ∧
  (∀ w : Command, w.toNat / 2 ^ 60 = 10 → w.toNat / 2 ^ 5 % 2 ^ 55 ≠ 0 → decode w = .error .illegalCommand) ∧
  ∀ s : State, s.params.tables = defaultTables →
    ∀ e ∈ [(0, 0), (31, 255), (1, 8), (16, 132), (24, 197)], exec (.scu5 (BitVec.ofNat 5 e.1)) s = .next (s.answered e.2)

/-- R113: SCU6. A bucket of 64 or more cannot be encoded. -/
def Obligations.Scu6ReadsUp6 : Prop :=
  (∀ (b : Bucket6) (s : State), exec (.scu6 b) s = .next (s.answered (s.params.tables.up6At b).toNat)) ∧
  (∀ b : Bucket6, decode (BitVec.ofNat 64 (11 * 2 ^ 60 + b.toNat)) = .ok (.scu6 b)) ∧
  (∀ w : Command, w.toNat / 2 ^ 60 = 11 → w.toNat / 2 ^ 6 % 2 ^ 54 ≠ 0 → decode w = .error .illegalCommand) ∧
  ∀ s : State, s.params.tables = defaultTables →
    ∀ e ∈ [(0, 0), (63, 255), (1, 4), (11, 45), (32, 130), (25, 101)], exec (.scu6 (BitVec.ofNat 6 e.1)) s = .next (s.answered e.2)

/-- R114: the fixed-point property as seen through the operations, and the 8-bit values that are representatives. -/
def Obligations.FixedPointThroughOperations : Prop :=
  ∀ prm : Params, prm.tables.Lawful →
    (∀ b : Bucket5, ∃ u : Channel, transact prm (encode (.scu5 b)) = some (BitVec.ofNat 32 u.toNat) ∧
      transact prm (encode (.scd5 u)) = some (BitVec.ofNat 32 b.toNat)) ∧
    (∀ b : Bucket6, ∃ u : Channel, transact prm (encode (.scu6 b)) = some (BitVec.ofNat 32 u.toNat) ∧
      transact prm (encode (.scd6 u)) = some (BitVec.ofNat 32 b.toNat)) ∧
    (∀ u : Channel, prm.tables.up5At (prm.tables.down5At u) = u ↔ ∃ b, prm.tables.up5At b = u) ∧
    ∀ u : Channel, prm.tables.up6At (prm.tables.down6At u) = u ↔ ∃ b, prm.tables.up6At b = u

/-! ### The Dither Engine -/

/-- R130: DITH.N is the identity, for all colours, coordinates and variants; the encoding. -/
def Obligations.DithNIsIdentity : Prop :=
  ∀ (v : Variant) (x y : Coord) (c : RgbColor),
    (∀ s : State, exec (.dithN v x y c) s = .next (s.answered (colourNum c))) ∧
    decode (BitVec.ofNat 64 (commandNum 3 0 v.num y.toNat x.toNat (colourNum c))) = .ok (.dithN v x y c)

/-- R131: DITH.O. The result for every operand and state; the encoding; the corner cases (the output packs and unpacks
to itself; with this hardware's tables black and white stay, and k = 32 is quantizing without dither; only `x mod 8`
and `y mod 8` count) and the examples. -/
def Obligations.DithOAddsBayerThreshold : Prop :=
  (∀ (x y : Coord) (c : RgbColor) (s : State),
    let t := s.params.tables
    let k := (t.bayerAt (BitVec.ofNat 3 (y.toNat % 8)) (BitVec.ofNat 3 (x.toNat % 8))).toNat
    exec (.dithO .v15 x y c) s = .next (s.answered (
      (t.up5At (BitVec.ofNat 5 ((64 * 31 * c.r.toNat + 255 * k) / 16320))).toNat +
      (t.up5At (BitVec.ofNat 5 ((64 * 31 * c.g.toNat + 255 * k) / 16320))).toNat * 2 ^ 8 +
      (t.up5At (BitVec.ofNat 5 ((64 * 31 * c.b.toNat + 255 * k) / 16320))).toNat * 2 ^ 16)) ∧
    exec (.dithO .v16 x y c) s = .next (s.answered (
      (t.up5At (BitVec.ofNat 5 ((64 * 31 * c.r.toNat + 255 * k) / 16320))).toNat +
      (t.up6At (BitVec.ofNat 6 ((64 * 63 * c.g.toNat + 255 * k) / 16320))).toNat * 2 ^ 8 +
      (t.up5At (BitVec.ofNat 5 ((64 * 31 * c.b.toNat + 255 * k) / 16320))).toNat * 2 ^ 16))) ∧
  (∀ v (x y : Coord) c, decode (BitVec.ofNat 64 (commandNum 3 1 v.num y.toNat x.toNat (colourNum c))) = .ok (.dithO v x y c)) ∧
  (∀ (t : Tables) v (x y : Coord) c, t.Lawful →
    unpackValue t v (packValue t v (ditherOrdered t v x y c)) = .ok (ditherOrdered t v x y c)) ∧
  (∀ v (x y : Coord), ditherOrdered defaultTables v x y ⟨0, 0, 0⟩ = ⟨0, 0, 0⟩ ∧
    ditherOrdered defaultTables v x y ⟨255, 255, 255⟩ = ⟨255, 255, 255⟩) ∧
  (∀ v (x y : Coord) c, thr defaultTables x y = 32 →
    unpackValue defaultTables v (packValue defaultTables v c) = .ok (ditherOrdered defaultTables v x y c)) ∧
  (∀ (t : Tables) v (x y x' y' : Coord) c, x.toNat % 8 = x'.toNat % 8 → y.toNat % 8 = y'.toNat % 8 →
    ditherOrdered t v x y c = ditherOrdered t v x' y' c) ∧
  ∀ s : State, s.params.tables = defaultTables →
    exec (.dithO .v16 1 0 ⟨128, 128, 128⟩) s = .next (s.answered 0x00848284) ∧
    exec (.dithO .v16 0 0 ⟨128, 128, 128⟩) s = .next (s.answered 0x007B7D7B)

/-- R132: DITH.S, with STO_ROUND = floor. The result for every operand; the encoding; the corner cases (black where
m = 255; white stays white everywhere; the clamp acts only for a channel of 255 where m = 255; the output is in general
no representative; only `x mod 256` and `y mod 256` count) and the example. -/
def Obligations.DithSFloorsMaskedLevels : Prop :=
  let m : Coord → Coord → Nat := fun x y => (x.toNat + 237 * y.toNat) * 119 % 256
  let ch : Nat → Nat → Nat → Nat := fun l m c => 255 * min ((l * c + m) / 255) l / l
  (∀ (x y : Coord) (c : RgbColor) (s : State), s.params.stoRound = .floor →
    exec (.dithS .v15 x y c) s = .next (s.answered (ch 32 (m x y) c.r.toNat + ch 32 (m x y) c.g.toNat * 2 ^ 8 + ch 32 (m x y) c.b.toNat * 2 ^ 16)) ∧
    exec (.dithS .v16 x y c) s = .next (s.answered (ch 32 (m x y) c.r.toNat + ch 64 (m x y) c.g.toNat * 2 ^ 8 + ch 32 (m x y) c.b.toNat * 2 ^ 16))) ∧
  (∀ v (x y : Coord) c, decode (BitVec.ofNat 64 (commandNum 3 2 v.num y.toNat x.toNat (colourNum c))) = .ok (.dithS v x y c)) ∧
  (∀ x y : Coord, m x y = 255 → ditherStochastic .floor .v15 x y ⟨0, 0, 0⟩ = ⟨7, 7, 7⟩ ∧ ditherStochastic .floor .v16 x y ⟨0, 0, 0⟩ = ⟨7, 3, 7⟩) ∧
  m 185 0 = 255 ∧
  (∀ v (x y : Coord), ditherStochastic .floor v x y ⟨255, 255, 255⟩ = ⟨255, 255, 255⟩) ∧
  (∀ (l : Nat) (c : Channel) (k : Mask), l = 32 ∨ l = 64 → (l < (l * c.toNat + k.toNat) / 255 ↔ c = 255 ∧ k = 255)) ∧
  (∃ (v : Variant) (x y : Coord) (c : RgbColor), unpackValue defaultTables v (packValue defaultTables v (ditherStochastic .floor v x y c)) ≠
    .ok (ditherStochastic .floor v x y c)) ∧
  (∀ v (x y x' y' : Coord) c, x.toNat % 256 = x'.toNat % 256 → y.toNat % 256 = y'.toNat % 256 →
    ditherStochastic .floor v x y c = ditherStochastic .floor v x' y' c) ∧
  ∀ s : State, s.params.stoRound = .floor → exec (.dithS .v16 2 0 ⟨200, 100, 50⟩) s = .next (s.answered 0x003767CF)

/-- DITH.S completes under either value of STO_ROUND (R6, U11): the response is OK and each channel is the level q' of
R137 scaled back by the rounding of the build. Derived: this hardware rounds down. -/
def Obligations.DithSCompletesUnderEitherRounding : Prop :=
  ∀ (v : Variant) (x y : Coord) (c : RgbColor) (s : State),
    let m := (x.toNat + 237 * y.toNat) * 119 % 256
    let back : Nat → Nat → Nat := fun l q => match s.params.stoRound with
      | .floor => 255 * q / l
      | .nearest => (2 * 255 * q + l) / (2 * l)
    let ch : Nat → Nat → Nat := fun l c => back l (min ((l * c + m) / 255) l)
    exec (.dithS v x y c) s =
      .next (s.answered (ch 32 c.r.toNat + ch (match v with | .v15 => 32 | .v16 => 64) c.g.toNat * 2 ^ 8 + ch 32 c.b.toNat * 2 ^ 16))

/-- R133: threshold selection, with `x mod 8 = CMD[26:24]` and `y mod 8 = CMD[42:40]`. -/
def Obligations.ThresholdIsMatrixEntry : Prop :=
  (∀ (t : Tables) (x y : Coord), t.bayer[8 * (y.toNat % 8) + x.toNat % 8]? = some (thr t x y) ∧ (thr t x y).toNat ≤ 63) ∧
  ∀ (t : Tables) (w : Command),
    t.bayer[8 * (w.toNat / 2 ^ 40 % 8) + w.toNat / 2 ^ 24 % 8]? = some (thr t (Command.xField w) (Command.yField w))

/-- R134: the ordered channel function: the table entry at `fdiv(64*N*c + 255*k, 16320)`, which equals
`floor(c*N/255 + k/64)` and is in range; the numerator is at most 1044225. -/
def Obligations.OrderedChannelFunction : Prop :=
  ∀ (t : Tables) (k : Threshold) (c : Channel),
    t.up5[(64 * 31 * c.toNat + 255 * k.toNat) / 16320]? = some (ordch5 t k c) ∧
    t.up6[(64 * 63 * c.toNat + 255 * k.toNat) / 16320]? = some (ordch6 t k c) ∧
    ⌊(c.toNat * 31 / 255 + k.toNat / 64 : ℚ)⌋ = ((64 * 31 * c.toNat + 255 * k.toNat) / 16320 : Nat) ∧
    ⌊(c.toNat * 63 / 255 + k.toNat / 64 : ℚ)⌋ = ((64 * 63 * c.toNat + 255 * k.toNat) / 16320 : Nat) ∧
    64 * 31 * c.toNat + 255 * k.toNat ≤ 1044225 ∧ 64 * 63 * c.toNat + 255 * k.toNat ≤ 1044225

/-- R136: the stochastic mask, in the rule's three forms (over the unbounded integers, by 8-bit wrap-around
arithmetic, and `(119*x + 43*y) mod 256`), where its operands lie in the command word, and the listed values. -/
def Obligations.StochasticMask : Prop :=
  (∀ x y : Coord, (smask x y).toNat = ((x.toNat + 237 * y.toNat) * 119) % 256 ∧
    smask x y = (x.setWidth 8 + 237#8 * y.setWidth 8) * 119#8 ∧
    (smask x y).toNat = (119 * x.toNat + 43 * y.toNat) % 256) ∧
  (∀ w : Command, (Command.xField w).toNat % 256 = w.toNat / 2 ^ 24 % 256 ∧ (Command.yField w).toNat % 256 = w.toNat / 2 ^ 40 % 256) ∧
  smask 0 0 = 0 ∧ smask 1 0 = 119 ∧ smask 0 1 = 43 ∧ smask 1 1 = 162 ∧ smask 2 0 = 238 ∧ smask 185 0 = 255

/-- R137: the stochastic channel function for both levels, with this hardware's rounding, and the widths of its
intermediate values. -/
def Obligations.StochasticChannelFunction : Prop :=
  ∀ l : Nat, l = 32 ∨ l = 64 → ∀ (m : Mask) (c : Channel),
    (stoch .floor l m c).toNat = 255 * min ((l * c.toNat + m.toNat) / 255) l / l ∧
    ⌊(l * (c.toNat / 255) + m.toNat / 255 : ℚ)⌋ = ((l * c.toNat + m.toNat) / 255 : Nat) ∧
    l * c.toNat + m.toNat ≤ 16575 ∧ (l * c.toNat + m.toNat) / 255 ≤ 65 ∧ 255 * min ((l * c.toNat + m.toNat) / 255) l ≤ 16320

/-- R139: the properties (a) to (e) of the ordered channel function, with this hardware's tables. -/
def Obligations.OrderedChannelLaws : Prop :=
  let t := defaultTables
  (∀ k, ordch5 t k 0 = 0 ∧ ordch6 t k 0 = 0 ∧ ordch5 t k 255 = 255 ∧ ordch6 t k 255 = 255) ∧
  (∀ c, ordch5 t 32 c = t.up5At (t.down5At c) ∧ ordch6 t 32 c = t.up6At (t.down6At c)) ∧
  (∀ (k k' : Threshold) (c : Channel), k ≤ k' → ordch5 t k c ≤ ordch5 t k' c ∧ ordch6 t k c ≤ ordch6 t k' c) ∧
  (∀ (k : Threshold) (c : Channel), (ordBucket 5 k c = c.toNat * 31 / 255 ∨ ordBucket 5 k c = c.toNat * 31 / 255 + 1) ∧
    (ordBucket 6 k c = c.toNat * 63 / 255 ∨ ordBucket 6 k c = c.toNat * 63 / 255 + 1)) ∧
  (∀ (k : Threshold) (c c' : Channel), c ≤ c' → ordch5 t k c ≤ ordch5 t k c' ∧ ordch6 t k c ≤ ordch6 t k c') ∧
  (∀ (k : Threshold) (c : Channel), (t.down5At (ordch5 t k c)).toNat = (64 * 31 * c.toNat + 255 * k.toNat) / 16320 ∧
    (t.down6At (ordch6 t k c)).toNat = (64 * 63 * c.toNat + 255 * k.toNat) / 16320) ∧
  ∀ (x y : Coord) (c : RgbColor),
    (packValue t .v15 (ditherOrdered t .v15 x y c)).toNat =
      ordBucket 5 (thr t x y) c.r + ordBucket 5 (thr t x y) c.g * 2 ^ 5 + ordBucket 5 (thr t x y) c.b * 2 ^ 10 ∧
    (packValue t .v16 (ditherOrdered t .v16 x y c)).toNat =
      ordBucket 5 (thr t x y) c.r + ordBucket 6 (thr t x y) c.g * 2 ^ 5 + ordBucket 5 (thr t x y) c.b * 2 ^ 11

/-- R140: the properties (a) to (f) of the stochastic channel function, with this hardware's rounding. -/
def Obligations.StochasticChannelLaws : Prop :=
  (∀ l : Nat, l = 32 ∨ l = 64 → ∀ (m : Mask) (c : Channel),
    ((l * c.toNat + m.toNat) / 255 ≠ stochLevel l m c ↔ c = 255 ∧ m = 255) ∧
    ((l * 255 + 255) / 255 = l + 1) ∧
    stoch .floor l m 255 = 255 ∧
    (m.toNat ≤ 254 → stoch .floor l m 0 = 0) ∧ (stoch .floor l 255 0).toNat = 255 / l ∧
    (∃ q, q ≤ l ∧ (stoch .floor l m c).toNat = 255 * q / l) ∧
    ((stoch .floor l 0 c).toNat = 255 * (l * c.toNat / 255) / l ∧ stoch .floor l 0 c ≤ c) ∧
    (∀ m' : Mask, m ≤ m' → stoch .floor l m c ≤ stoch .floor l m' c) ∧
    ((l * c.toNat + m.toNat) / 255 = l * c.toNat / 255 ∨ (l * c.toNat + m.toNat) / 255 = l * c.toNat / 255 + 1)) ∧
  ((stoch .floor 32 255 0).toNat = 7 ∧ (stoch .floor 64 255 0).toNat = 3) ∧
  (∀ l : Nat, l = 32 ∨ l = 64 → ∀ q, q ≤ l → ∃ (m : Mask) (c : Channel), (stoch .floor l m c).toNat = 255 * q / l) ∧
  ∀ (y x0 : Nat), y < 2 ^ 16 → x0 + 256 ≤ 2 ^ 16 → ∀ m : Mask,
    ∃ j, j < 256 ∧ smask (BitVec.ofNat 16 (x0 + j)) (BitVec.ofNat 16 y) = m ∧
      ∀ j', j' < 256 → smask (BitVec.ofNat 16 (x0 + j')) (BitVec.ofNat 16 y) = m → j' = j

/-- R141: periodicity: DITH.O has period 8 in x and in y, DITH.S period 256, and DITH.N does not depend on position. -/
def Obligations.DitherIsPeriodic : Prop :=
  ∀ (prm : Params) (v : Variant) (x y x' y' : Coord) (c : RgbColor),
    (x.toNat % 8 = x'.toNat % 8 → y.toNat % 8 = y'.toNat % 8 → dither prm .ordered v x y c = dither prm .ordered v x' y' c) ∧
    (x.toNat % 256 = x'.toNat % 256 → y.toNat % 256 = y'.toNat % 256 → dither prm .stochastic v x y c = dither prm .stochastic v x' y' c) ∧
    dither prm .none v x y c = dither prm .none v x' y' c

/-- R135 and R144: green alone follows the variant (depth 5 and 32 levels under Variant15, depth 6 and 64 levels under
Variant16), red and blue always have depth 5 and 32 levels; an output channel depends on the input channel in the same
position, on the position (x, y) and, for green only, on V, under each policy. -/
def Obligations.ChannelsAreIndependent : Prop :=
  (∀ (t : Tables) (x y : Coord) (c : RgbColor),
    ditherOrdered t .v15 x y c = ⟨ordch5 t (thr t x y) c.r, ordch5 t (thr t x y) c.g, ordch5 t (thr t x y) c.b⟩ ∧
    ditherOrdered t .v16 x y c = ⟨ordch5 t (thr t x y) c.r, ordch6 t (thr t x y) c.g, ordch5 t (thr t x y) c.b⟩) ∧
  (∀ (rd : StoRound) (x y : Coord) (c : RgbColor),
    ditherStochastic rd .v15 x y c = ⟨stoch rd 32 (smask x y) c.r, stoch rd 32 (smask x y) c.g, stoch rd 32 (smask x y) c.b⟩ ∧
    ditherStochastic rd .v16 x y c = ⟨stoch rd 32 (smask x y) c.r, stoch rd 64 (smask x y) c.g, stoch rd 32 (smask x y) c.b⟩) ∧
  ∀ (prm : Params) (p : DitherPolicy) (v v' : Variant) (x y : Coord) (c c' : RgbColor),
    (c.r = c'.r → (dither prm p v x y c).r = (dither prm p v' x y c').r) ∧
    (c.g = c'.g → (dither prm p v x y c).g = (dither prm p v x y c').g) ∧
    (c.b = c'.b → (dither prm p v x y c).b = (dither prm p v' x y c').b)

/-! ### The Image Quantizer, one pixel -/

/-- R160: QUANT.N. The result for every operand and state; the encoding; the corner cases and the examples. -/
def Obligations.QuantNRoundsEachChannel : Prop :=
  (∀ (x y : Coord) (c : RgbColor) (s : State),
    let t := s.params.tables
    exec (.quantN .v15 x y c) s = .next (s.answered ((t.up5At (t.down5At c.r)).toNat + (t.up5At (t.down5At c.g)).toNat * 2 ^ 8 +
      (t.up5At (t.down5At c.b)).toNat * 2 ^ 16)) ∧
    exec (.quantN .v16 x y c) s = .next (s.answered ((t.up5At (t.down5At c.r)).toNat + (t.up6At (t.down6At c.g)).toNat * 2 ^ 8 +
      (t.up5At (t.down5At c.b)).toNat * 2 ^ 16))) ∧
  (∀ v (x y : Coord) c, decode (BitVec.ofNat 64 (commandNum 4 0 v.num y.toNat x.toNat (colourNum c))) = .ok (.quantN v x y c)) ∧
  (∀ v (x y : Coord) (s : State) (r b : Bucket5) (g5 : Bucket5) (g6 : Bucket6), s.params.tables.Lawful →
    let t := s.params.tables
    let c : RgbColor := ⟨t.up5At r, match v with | .v15 => t.up5At g5 | .v16 => t.up6At g6, t.up5At b⟩
    exec (.quantN v x y c) s = .next (s.answered (colourNum c))) ∧
  ∀ s : State, s.params.tables = defaultTables →
    (∀ v (x y : Coord), exec (.quantN v x y ⟨0, 0, 0⟩) s = .next (s.answered 0) ∧
      exec (.quantN v x y ⟨255, 255, 255⟩) s = .next (s.answered 0xFFFFFF)) ∧
    exec (.quantN .v16 0 0 ⟨200, 100, 50⟩) s = .next (s.answered 0x003165C5) ∧
    exec (.quantN .v15 0 0 ⟨200, 100, 50⟩) s = .next (s.answered 0x003163C5)

/-- R161: QUANT.O. The result for every operand and state; the encoding; with lawful tables it answers what DITH.O
answers; it is not idempotent: at one position a colour, its result and the result of that differ; the examples. -/
def Obligations.QuantOAnswersAsDithO : Prop :=
  (∀ (x y : Coord) (c : RgbColor) (s : State),
    let t := s.params.tables
    let k := (t.bayerAt (BitVec.ofNat 3 (y.toNat % 8)) (BitVec.ofNat 3 (x.toNat % 8))).toNat
    let q5 : Nat → Nat := fun c => (t.up5At (t.down5At (t.up5At (BitVec.ofNat 5 ((64 * 31 * c + 255 * k) / 16320))))).toNat
    let q6 : Nat → Nat := fun c => (t.up6At (t.down6At (t.up6At (BitVec.ofNat 6 ((64 * 63 * c + 255 * k) / 16320))))).toNat
    exec (.quantO .v15 x y c) s = .next (s.answered (q5 c.r.toNat + q5 c.g.toNat * 2 ^ 8 + q5 c.b.toNat * 2 ^ 16)) ∧
    exec (.quantO .v16 x y c) s = .next (s.answered (q5 c.r.toNat + q6 c.g.toNat * 2 ^ 8 + q5 c.b.toNat * 2 ^ 16))) ∧
  (∀ v (x y : Coord) c, decode (BitVec.ofNat 64 (commandNum 4 1 v.num y.toNat x.toNat (colourNum c))) = .ok (.quantO v x y c)) ∧
  (∀ v (x y : Coord) c (s : State), s.params.tables.Lawful → exec (.quantO v x y c) s = exec (.dithO v x y c) s) ∧
  ∀ s : State, s.params.tables = defaultTables →
    (∃ (x y : Coord) (c c' c'' : RgbColor), quantPix s.params .ordered .v15 x y c = .ok c' ∧
      quantPix s.params .ordered .v15 x y c' = .ok c'' ∧ c'' ≠ c') ∧
    (∃ b : Bucket5, s.params.tables.up5At b = 8) ∧
    exec (.quantO .v15 0 0 ⟨8, 8, 8⟩) s = .next (s.answered 0) ∧
    exec (.quantO .v15 3 2 ⟨200, 100, 50⟩) s = .next (s.answered 0x003163C5)

/-- R162: QUANT.S, with STO_ROUND = floor. The result for every operand; the encoding; black where m = 255; not
idempotent; the example. -/
def Obligations.QuantSRoundsDithS : Prop :=
  let m : Coord → Coord → Nat := fun x y => (x.toNat + 237 * y.toNat) * 119 % 256
  let ch : Nat → Nat → Nat → Channel := fun l m c => BitVec.ofNat 8 (255 * min ((l * c + m) / 255) l / l)
  (∀ (x y : Coord) (c : RgbColor) (s : State), s.params.stoRound = .floor →
    let t := s.params.tables
    let q5 : Channel → Nat := fun c => (t.up5At (t.down5At (ch 32 (m x y) c.toNat))).toNat
    let q6 : Channel → Nat := fun c => (t.up6At (t.down6At (ch 64 (m x y) c.toNat))).toNat
    exec (.quantS .v15 x y c) s = .next (s.answered (q5 c.r + q5 c.g * 2 ^ 8 + q5 c.b * 2 ^ 16)) ∧
    exec (.quantS .v16 x y c) s = .next (s.answered (q5 c.r + q6 c.g * 2 ^ 8 + q5 c.b * 2 ^ 16))) ∧
  (∀ v (x y : Coord) c, decode (BitVec.ofNat 64 (commandNum 4 2 v.num y.toNat x.toNat (colourNum c))) = .ok (.quantS v x y c)) ∧
  ∀ s : State, s.params = defaultParams →
    (∀ x y : Coord, m x y = 255 → exec (.quantS .v15 x y ⟨0, 0, 0⟩) s = .next (s.answered 0x080808) ∧
      exec (.quantS .v16 x y ⟨0, 0, 0⟩) s = .next (s.answered 0x080408)) ∧
    (∃ (x y : Coord) (c c' c'' : RgbColor), quantPix s.params .stochastic .v15 x y c = .ok c' ∧
      quantPix s.params .stochastic .v15 x y c' = .ok c'' ∧ c'' ≠ c') ∧
    exec (.quantS .v16 2 0 ⟨200, 100, 50⟩) s = .next (s.answered 0x003A65CE)

/-- QUANT completes under either value of STO_ROUND and with any tables (R164, U11): the response is OK and is the
colour of the per-pixel function. Derived. -/
def Obligations.QuantCompletesForEveryBuild : Prop :=
  ∀ (p : DitherPolicy) (v : Variant) (x y : Coord) (c : RgbColor) (s : State),
    ∃ out, quantPix s.params p v x y c = .ok out ∧ exec (quantInstr p v x y c) s = .next (s.answered (colourNum out))

/-- R164: QUANT ends as the UNPACK of the packed value ends; a packed value that UNPACK refuses makes it answer
InvalidValue, response 0x10000000; and it never does, because no freshly packed value is refused. -/
def Obligations.QuantFailureIsHandledAndDead : Prop :=
  (∀ (p : DitherPolicy) (v : Variant) (x y : Coord) (c : RgbColor) (s : State),
    exec (quantInstr p v x y c) s =
      .next (s.respondColour (quantFinish s.params.tables v (packValue s.params.tables v (dither s.params p v x y c))))) ∧
  (∀ (s : State) (value : PackedValue), 0x8000 ≤ value.toNat →
    s.respondColour (quantFinish s.params.tables .v15 value) = s.answered 0x10000000) ∧
  (∀ (t : Tables) (v : Variant) (value : PackedValue),
    quantFinish t v value = .error .invalidValue ↔ unpackValue t v value = .error .invalidValue) ∧
  ∀ (p : DitherPolicy) (v : Variant) (x y : Coord) (c : RgbColor) (s : State),
    exec (quantInstr p v x y c) s ≠ .next (s.answered 0x10000000)

/-- R165: the fixed point without dither, at any two positions, and why the variants must agree: UP6[25] = 101 is no
entry of UP5. -/
def Obligations.QuantNIsFixedPoint : Prop :=
  (∀ (prm : Params) (v : Variant) (x y x' y' : Coord) (c out : RgbColor), prm.tables.Lawful →
    quantPix prm .none v x y c = .ok out → quantPix prm .none v x' y' out = .ok out) ∧
  (defaultTables.up6At 25 = 101 ∧ ∀ b, defaultTables.up5At b ≠ 101) ∧
  ∃ c out out' : RgbColor, quantPix defaultParams .none .v16 0 0 c = .ok out ∧
    quantPix defaultParams .none .v15 0 0 out = .ok out' ∧ out' ≠ out

/-- R170 and R44: packing a quantized pixel gives the packed value of the dithered colour, reading that value back gives
the pixel, and the value goes to the file as two bytes, `value[7:0]` at the lower offset and `value[15:8]` next, from
which it is got back. -/
def Obligations.FileHoldsTheQuantizedPixel : Prop :=
  (∀ (prm : Params) (p : DitherPolicy) (v : Variant) (x y : Coord) (c out : RgbColor), prm.tables.Lawful →
    quantPix prm p v x y c = .ok out →
      packValue prm.tables v out = packValue prm.tables v (dither prm p v x y c) ∧
      unpackValue prm.tables v (packValue prm.tables v out) = .ok out) ∧
  (∀ value : PackedValue, ∃ lo hi : BitVec 8, fileBytes value = [lo, hi] ∧ lo.toNat = value.toNat % 256 ∧
    hi.toNat = value.toNat / 256 ∧ ofFileBytes lo hi = value) ∧
  fileBytes 0x07E0 = [0xE0, 0x07]

/-! ### The whole-image sequence -/

/-- R166, whole machine: a QIMG that the host may start runs to its end in 3*w*h + 1 steps (issue, answer, take, for
each pixel: the cut into steps is the model's choice, log entry 6), returns Ok, leaves every element quantized with its
own coordinates, and changes nothing else; and that buffer is the one the loop of rule R166 computes over transactions. -/
def Obligations.QimgQuantizesTheImage : Prop :=
  ∀ (s s0 : State) (p : DitherPolicy) (im : ImageMetadata), s.startQimg p im = some s0 →
    ∃ buf : List RgbColor,
      stepMany (3 * (im.width.toNat * im.height.toNat) + 1) s0 = some { s with phase := .finished, buffer := buf } ∧
      qimg s.params p im s.buffer = .ok buf ∧ buf.length = s.buffer.length ∧
      ∀ x y : Nat, x < im.width.toNat → y < im.height.toNat → ∃ c out : RgbColor,
        s.buffer[y * im.width.toNat + x]? = some c ∧ buf[y * im.width.toNat + x]? = some out ∧
        quantPix s.params p im.variant (BitVec.ofNat 16 x) (BitVec.ofNat 16 y) c = .ok out

/-- R166, D27: an image with no pixels issues no command and succeeds with the buffer untouched; "with w = 0 or h = 0
the loops do nothing". -/
def Obligations.EmptyImageIssuesNothing : Prop :=
  ∀ (s s0 : State) (p : DitherPolicy) (im : ImageMetadata), im.width = 0 ∨ im.height = 0 → s.startQimg p im = some s0 →
    step s0 = .next { s with phase := .finished } ∧ s.buffer = [] ∧ expandQimg p im s.buffer = []

/-- R167: the result of QIMG does not depend on the order in which the pixels are taken. -/
def Obligations.PixelOrderDoesNotMatter : Prop :=
  ∀ (prm : Params) (p : DitherPolicy) (im : ImageMetadata) (order : List Nat) (buf : List RgbColor),
    buf.length = im.width.toNat * im.height.toNat → order.Perm (List.range (im.width.toNat * im.height.toNat)) →
      qimgInOrder prm p im order buf = qimg prm p im buf

/-- R52, R167: nor on how many copies of the block share the pixels, nor on which copy computes which pixel, nor on
when. The copies have the same constants, run no sequence of their own, and hold whatever they hold besides, commands
and responses of other work on their ports among it. Whatever the interleaving in which the host gives each element's
command once, the copies step and the host takes responses, nothing fails, the open commands can be settled, and once
none is open the buffer is the one QIMG computes. The form of the sharing is the model's choice, log entry 11. -/
def Obligations.CopiesDoNotMatter : Prop :=
  ∀ (cps : Replicas) (prm : Params) (p : DitherPolicy) (im : ImageMetadata) (buf : List RgbColor),
    cps.sharing prm → (∀ s ∈ cps.copies, s.phase.atRest = true) → buf.length = im.width.toNat * im.height.toNat →
    (∀ moves : List ShareMove,
      (moves.filterMap ShareMove.element).Perm (List.range (im.width.toNat * im.height.toNat)) →
      (∀ m ∈ moves, m.copy < cps.copies.length) →
      ∃ final settled : Sharing, Sharing.moves p im moves (Sharing.start cps buf) = .ok final ∧
        (final.given = [] → qimg prm p im buf = .ok final.buffer) ∧
        Sharing.moves p im final.settling final = .ok settled ∧ settled.given = [] ∧
        qimg prm p im buf = .ok settled.buffer) ∧
    ∀ jobs : List (Nat × Nat), (jobs.map Prod.fst).Perm (List.range (im.width.toNat * im.height.toNat)) →
      (∀ j ∈ jobs, j.2 < cps.copies.length) → qimgOnCopies cps p im jobs buf = qimg prm p im buf

/-- R194: the copies send each other nothing: a step of one copy changes no other, and steps of two copies commute. -/
def Obligations.CopiesAreIndependent : Prop :=
  ∀ (cps cps' : Replicas) (j : Nat), cps.stepCopy j = some cps' →
    cps'.copies.length = cps.copies.length ∧
    (∀ k, k ≠ j → cps'.copies[k]? = cps.copies[k]?) ∧
    ∀ (k : Nat) (cps'' : Replicas), k ≠ j → cps'.stepCopy k = some cps'' →
      ∃ mid, cps.stepCopy k = some mid ∧ mid.stepCopy j = some cps''

/-- R169, U1: a response with ST other than 0 ends QIMG with that status; the buffer keeps its length and each element
is some colour, of which nothing is said; nothing else but the taken response changes. -/
def Obligations.FailedQimgReturnsStatus : Prop :=
  ∀ (s : State) (q : QimgRun) (r : Response) (rest : List Response), s.pending = [] → s.phase = .waiting q →
    s.responses = r :: rest → Response.statusField r ≠ 0 →
    ∃ (buf : List RgbColor) (n : Nat), buf.length = s.buffer.length ∧
      step s = .next { s with responses := rest, phase := .failed (Response.statusField r), buffer := buf, freeCount := n }

/-- R75: the pseudo-instruction stands for w*h commands, one for each pixel in row-major order, with the pixel's own
coordinates and colour. -/
def Obligations.QimgExpansion : Prop :=
  ∀ (p : DitherPolicy) (im : ImageMetadata) (buf : List RgbColor), buf.length = im.width.toNat * im.height.toNat →
    (expandQimg p im buf).length = im.width.toNat * im.height.toNat ∧
    ∀ x y : Nat, x < im.width.toNat → y < im.height.toNat → ∃ c, buf[y * im.width.toNat + x]? = some c ∧
      (expandQimg p im buf)[y * im.width.toNat + x]? = some (quantInstr p im.variant (BitVec.ofNat 16 x) (BitVec.ofNat 16 y) c)

/-! ### Invariants of the whole machine -/

/-- Every step keeps a safe state safe, and no step from a safe state stops: the tables stay lawful, every response
delivered is legal, and the host's sequence never fails. -/
def Obligations.EveryStepKeepsSafety : Prop :=
  ∀ s : State, s.Inv → ∃ t, step s = .next t ∧ t.Inv

/-- From a safe state every run is safe, of any length. -/
def Obligations.RunsFromSafeStatesAreSafe : Prop :=
  ∀ (n : Nat) (s : State), s.Inv → s.RunsSafely n ∧ ∀ t, stepMany n s = some t → t.Inv ∧ t.params = s.params

/-! ### The assembler -/

/-- R74: the assembler takes exactly the well-formed lines, gives back the operation a line was written from, and
cannot produce an illegal word. -/
def Obligations.AssemblerAgreesWithOperations : Prop :=
  (∀ i : Instr, (disassemble i).wellFormed = true ∧ assemble (disassemble i) = some i) ∧
  (∀ l : AsmLine, (∃ i, assemble l = some i) ↔ l.wellFormed = true) ∧
  (∀ (l : AsmLine) (i : Instr), assemble l = some i → disassemble i = l) ∧
  ∀ (l : AsmLine) (i : Instr), assemble l = some i → ∃ i', decode (encode i) = .ok i'
end

