-- ==== Sys2Proof/Laws/Layout.lean ====
section
/-! SUPPORT. The small lemmas of the layouts: what each field of format C, of format R, of DATA and of a packed value
reads back, and the value of each layout as a number. -/

namespace Sys2Proof

theorem toNat_append_add {m n : Nat} (a : BitVec m) (b : BitVec n) : (a ++ b).toNat = a.toNat * 2 ^ n + b.toNat := by
  rw [BitVec.toNat_append, Nat.shiftLeft_eq, Nat.mul_comm, Nat.two_pow_add_eq_or_of_lt b.isLt]

theorem toNat_formC (op : BitVec 4) (pol : BitVec 2) (v z : BitVec 1) (y x : Coord) (d : Data) :
    (formC op pol v z y x d).toNat = op.toNat * 2 ^ 60 + pol.toNat * 2 ^ 58 + v.toNat * 2 ^ 57 + z.toNat * 2 ^ 56 +
      y.toNat * 2 ^ 40 + x.toNat * 2 ^ 24 + d.toNat := by
  change BitVec.toNat (w := 4 + 2 + 1 + 1 + 16 + 16 + 24) (op ++ pol ++ v ++ z ++ y ++ x ++ d) = _
  simp only [toNat_append_add]
  omega

@[simp] theorem formC_xField (op : BitVec 4) (pol : BitVec 2) (v z : BitVec 1) (y x : Coord) (d : Data) :
    Command.xField (formC op pol v z y x d) = x := by
  apply BitVec.eq_of_toNat_eq
  simp only [Command.xField, BitVec.extractLsb'_toNat, toNat_formC, Nat.shiftRight_eq_div_pow]
  omega

@[simp] theorem formC_vField (op : BitVec 4) (pol : BitVec 2) (v z : BitVec 1) (y x : Coord) (d : Data) :
    Command.vField (formC op pol v z y x d) = v := by
  apply BitVec.eq_of_toNat_eq
  simp only [Command.vField, BitVec.extractLsb'_toNat, toNat_formC, Nat.shiftRight_eq_div_pow]
  omega

@[simp] theorem formC_yField (op : BitVec 4) (pol : BitVec 2) (v z : BitVec 1) (y x : Coord) (d : Data) :
    Command.yField (formC op pol v z y x d) = y := by
  apply BitVec.eq_of_toNat_eq
  simp only [Command.yField, BitVec.extractLsb'_toNat, toNat_formC, Nat.shiftRight_eq_div_pow]
  omega

@[simp] theorem formC_dataField (op : BitVec 4) (pol : BitVec 2) (v z : BitVec 1) (y x : Coord) (d : Data) :
    Command.dataField (formC op pol v z y x d) = d := by
  apply BitVec.eq_of_toNat_eq
  simp only [Command.dataField, BitVec.extractLsb'_toNat, toNat_formC, Nat.shiftRight_eq_div_pow]
  omega

theorem and_formC (op op' : BitVec 4) (pol pol' : BitVec 2) (v v' z z' : BitVec 1) (y y' x x' : Coord) (d d' : Data) :
    formC op pol v z y x d &&& formC op' pol' v' z' y' x' d' =
      formC (op &&& op') (pol &&& pol') (v &&& v') (z &&& z') (y &&& y') (x &&& x') (d &&& d') := by
  unfold formC
  refine (BitVec.and_append).trans ?_
  simp only [BitVec.and_append]

theorem formC_inj (op op' : BitVec 4) (pol pol' : BitVec 2) (v v' z z' : BitVec 1) (y y' x x' : Coord) (d d' : Data) :
    formC op pol v z y x d = formC op' pol' v' z' y' x' d' ↔
      op = op' ∧ pol = pol' ∧ v = v' ∧ z = z' ∧ y = y' ∧ x = x' ∧ d = d' := by
  constructor
  · intro h
    have h := congrArg BitVec.toNat h
    simp only [toNat_formC] at h
    simp only [← BitVec.toNat_inj]
    omega
  · rintro ⟨rfl, rfl, rfl, rfl, rfl, rfl, rfl⟩; rfl

theorem exists_formC (w : Command) : ∃ op pol v z y x d, w = formC op pol v z y x d := by
  refine ⟨w.extractLsb' 60 4, w.extractLsb' 58 2, w.extractLsb' 57 1, w.extractLsb' 56 1, w.extractLsb' 40 16,
    w.extractLsb' 24 16, w.extractLsb' 0 24, ?_⟩
  apply BitVec.eq_of_toNat_eq
  simp only [toNat_formC, BitVec.extractLsb'_toNat, Nat.shiftRight_eq_div_pow]
  omega

/-- The bits of DATA above the lowest k are zero exactly when DATA is below 2^k: for the four masks of rule R69. -/
theorem data_above16 (d : Data) : d &&& 0xFF0000#24 = 0#24 ↔ d.toNat < 65536 := by
  have hd : d = d.extractLsb' 16 8 ++ d.extractLsb' 0 16 := by
    apply BitVec.eq_of_toNat_eq
    simp only [toNat_append_add, BitVec.extractLsb'_toNat, Nat.shiftRight_eq_div_pow]; omega
  have hm : (0xFF0000#24 : Data) = BitVec.allOnes 8 ++ 0#16 := by decide
  have hb := d.isLt
  rw [hm]; conv_lhs => rw [hd]
  rw [BitVec.and_append, BitVec.and_allOnes, BitVec.and_zero, ← BitVec.toNat_inj]
  simp only [toNat_append_add, BitVec.extractLsb'_toNat, Nat.shiftRight_eq_div_pow, BitVec.toNat_ofNat]
  omega

theorem data_above8 (d : Data) : d &&& 0xFFFF00#24 = 0#24 ↔ d.toNat < 256 := by
  have hd : d = d.extractLsb' 8 16 ++ d.extractLsb' 0 8 := by
    apply BitVec.eq_of_toNat_eq
    simp only [toNat_append_add, BitVec.extractLsb'_toNat, Nat.shiftRight_eq_div_pow]; omega
  have hm : (0xFFFF00#24 : Data) = BitVec.allOnes 16 ++ 0#8 := by decide
  have hb := d.isLt
  rw [hm]; conv_lhs => rw [hd]
  rw [BitVec.and_append, BitVec.and_allOnes, BitVec.and_zero, ← BitVec.toNat_inj]
  simp only [toNat_append_add, BitVec.extractLsb'_toNat, Nat.shiftRight_eq_div_pow, BitVec.toNat_ofNat]
  omega

theorem data_above5 (d : Data) : d &&& 0xFFFFE0#24 = 0#24 ↔ d.toNat < 32 := by
  have hd : d = d.extractLsb' 5 19 ++ d.extractLsb' 0 5 := by
    apply BitVec.eq_of_toNat_eq
    simp only [toNat_append_add, BitVec.extractLsb'_toNat, Nat.shiftRight_eq_div_pow]; omega
  have hm : (0xFFFFE0#24 : Data) = BitVec.allOnes 19 ++ 0#5 := by decide
  have hb := d.isLt
  rw [hm]; conv_lhs => rw [hd]
  rw [BitVec.and_append, BitVec.and_allOnes, BitVec.and_zero, ← BitVec.toNat_inj]
  simp only [toNat_append_add, BitVec.extractLsb'_toNat, Nat.shiftRight_eq_div_pow, BitVec.toNat_ofNat]
  omega

theorem data_above6 (d : Data) : d &&& 0xFFFFC0#24 = 0#24 ↔ d.toNat < 64 := by
  have hd : d = d.extractLsb' 6 18 ++ d.extractLsb' 0 6 := by
    apply BitVec.eq_of_toNat_eq
    simp only [toNat_append_add, BitVec.extractLsb'_toNat, Nat.shiftRight_eq_div_pow]; omega
  have hm : (0xFFFFC0#24 : Data) = BitVec.allOnes 18 ++ 0#6 := by decide
  have hb := d.isLt
  rw [hm]; conv_lhs => rw [hd]
  rw [BitVec.and_append, BitVec.and_allOnes, BitVec.and_zero, ← BitVec.toNat_inj]
  simp only [toNat_append_add, BitVec.extractLsb'_toNat, Nat.shiftRight_eq_div_pow, BitVec.toNat_ofNat]
  omega

@[simp] theorem variantOfBit_bit (v : Variant) : variantOfBit v.bit = v := by cases v <;> rfl

@[simp] theorem bit_variantOfBit (b : BitVec 1) : (variantOfBit b).bit = b := by
  revert b; decide

theorem toNat_dataOfColour (c : RgbColor) :
    (dataOfColour c).toNat = c.r.toNat + 256 * c.g.toNat + 65536 * c.b.toNat := by
  change BitVec.toNat (w := 8 + 8 + 8) (c.b ++ c.g ++ c.r) = _
  simp only [toNat_append_add]
  omega

@[simp] theorem colourOfData_dataOfColour (c : RgbColor) : colourOfData (dataOfColour c) = c := by
  have h := toNat_dataOfColour c
  obtain ⟨r, g, b⟩ := c
  simp only [colourOfData, RgbColor.mk.injEq, ← BitVec.toNat_inj, BitVec.extractLsb'_toNat, h,
    Nat.shiftRight_eq_div_pow]
  omega

@[simp] theorem dataOfColour_colourOfData (d : Data) : dataOfColour (colourOfData d) = d := by
  apply BitVec.eq_of_toNat_eq
  simp only [toNat_dataOfColour, colourOfData, BitVec.extractLsb'_toNat, Nat.shiftRight_eq_div_pow]
  omega

theorem toNat_dataOfPacked (p : PackedValue) : (dataOfPacked p).toNat = p.toNat := by
  change BitVec.toNat (w := 8 + 16) (0#8 ++ p) = _
  simp only [toNat_append_add, BitVec.toNat_ofNat]
  omega

@[simp] theorem packedOfData_dataOfPacked (p : PackedValue) : packedOfData (dataOfPacked p) = p := by
  apply BitVec.eq_of_toNat_eq
  simp only [packedOfData, BitVec.extractLsb'_toNat, toNat_dataOfPacked, Nat.shiftRight_eq_div_pow]
  omega

theorem toNat_dataOfIndex {n : Nat} (h : n ≤ 24) (i : BitVec n) : (dataOfIndex i).toNat = i.toNat := by
  rw [dataOfIndex, BitVec.toNat_setWidth, Nat.mod_eq_of_lt]
  exact Nat.lt_of_lt_of_le i.isLt (Nat.pow_le_pow_right (by decide) h)

theorem toNat_formR (st : Status) (d : Data) : (formR st d).toNat = st.toNat * 2 ^ 28 + d.toNat := by
  change BitVec.toNat (w := 4 + 4 + 24) (st ++ 0#4 ++ d) = _
  simp only [toNat_append_add, BitVec.toNat_ofNat]
  omega

@[simp] theorem formR_statusField (st : Status) (d : Data) : Response.statusField (formR st d) = st := by
  apply BitVec.eq_of_toNat_eq
  simp only [Response.statusField, BitVec.extractLsb'_toNat, toNat_formR, Nat.shiftRight_eq_div_pow]
  omega

@[simp] theorem formR_zeroField (st : Status) (d : Data) : Response.zeroField (formR st d) = 0#4 := by
  apply BitVec.eq_of_toNat_eq
  simp only [Response.zeroField, BitVec.extractLsb'_toNat, toNat_formR, Nat.shiftRight_eq_div_pow, BitVec.toNat_ofNat]
  omega

@[simp] theorem formR_dataField (st : Status) (d : Data) : Response.dataField (formR st d) = d := by
  apply BitVec.eq_of_toNat_eq
  simp only [Response.dataField, BitVec.extractLsb'_toNat, toNat_formR, Nat.shiftRight_eq_div_pow]
  omega

theorem okResponse_eq_ofNat (d : Data) : okResponse d = BitVec.ofNat 32 d.toNat := by
  apply BitVec.eq_of_toNat_eq
  simp only [okResponse, statusOk, toNat_formR, BitVec.toNat_ofNat]
  omega

theorem errorResponse_eq_ofNat (e : ErrorKind) : errorResponse e = BitVec.ofNat 32 (e.status.toNat * 2 ^ 28) := by
  cases e <;> decide

theorem toNat_or_shift {r g : Nat} (k : Nat) (hr : r < 2 ^ k) : r ||| g * 2 ^ k = r + g * 2 ^ k := by
  rw [Nat.or_comm, Nat.mul_comm, ← Nat.two_pow_add_eq_or_of_lt hr, Nat.add_comm]

theorem toNat_pv15 (r g b : Bucket5) : (pv15 r g b).toNat = r.toNat + g.toNat * 2 ^ 5 + b.toNat * 2 ^ 10 := by
  have hr := r.isLt; have hg := g.isLt; have hb := b.isLt
  simp only [pv15, BitVec.toNat_or, BitVec.toNat_shiftLeft, BitVec.toNat_setWidth, Nat.shiftLeft_eq]
  rw [Nat.mod_eq_of_lt (a := r.toNat) (by omega), Nat.mod_eq_of_lt (a := g.toNat) (by omega),
    Nat.mod_eq_of_lt (a := b.toNat) (by omega), Nat.mod_eq_of_lt (a := g.toNat * 2 ^ 5) (by omega),
    Nat.mod_eq_of_lt (a := b.toNat * 2 ^ 10) (by omega), toNat_or_shift 5 hr, toNat_or_shift 10 (by omega)]

theorem toNat_pv16 (r : Bucket5) (g : Bucket6) (b : Bucket5) :
    (pv16 r g b).toNat = r.toNat + g.toNat * 2 ^ 5 + b.toNat * 2 ^ 11 := by
  have hr := r.isLt; have hg := g.isLt; have hb := b.isLt
  simp only [pv16, BitVec.toNat_or, BitVec.toNat_shiftLeft, BitVec.toNat_setWidth, Nat.shiftLeft_eq]
  rw [Nat.mod_eq_of_lt (a := r.toNat) (by omega), Nat.mod_eq_of_lt (a := g.toNat) (by omega),
    Nat.mod_eq_of_lt (a := b.toNat) (by omega), Nat.mod_eq_of_lt (a := g.toNat * 2 ^ 5) (by omega),
    Nat.mod_eq_of_lt (a := b.toNat * 2 ^ 11) (by omega), toNat_or_shift 5 hr, toNat_or_shift 11 (by omega)]

/-- The reserved bit as a number: a packed value has it set exactly when it is 0x8000 or more. -/
theorem reserved15_iff (p : PackedValue) : PackedValue.reserved15 p = true ↔ 0x8000 ≤ p.toNat := by
  have hp := p.isLt
  rw [PackedValue.reserved15, BitVec.getLsbD, Nat.testBit_eq_decide_div_mod_eq]
  simp only [decide_eq_true_eq]
  omega

theorem toNat_red (p : PackedValue) : (PackedValue.red p).toNat = p.toNat % 32 := by
  simp only [PackedValue.red, BitVec.extractLsb'_toNat, Nat.shiftRight_eq_div_pow]; omega

theorem toNat_green15 (p : PackedValue) : (PackedValue.green15 p).toNat = p.toNat / 32 % 32 := by
  simp only [PackedValue.green15, BitVec.extractLsb'_toNat, Nat.shiftRight_eq_div_pow]

theorem toNat_blue15 (p : PackedValue) : (PackedValue.blue15 p).toNat = p.toNat / 1024 % 32 := by
  simp only [PackedValue.blue15, BitVec.extractLsb'_toNat, Nat.shiftRight_eq_div_pow]

theorem toNat_green16 (p : PackedValue) : (PackedValue.green16 p).toNat = p.toNat / 32 % 64 := by
  simp only [PackedValue.green16, BitVec.extractLsb'_toNat, Nat.shiftRight_eq_div_pow]

theorem toNat_blue16 (p : PackedValue) : (PackedValue.blue16 p).toNat = p.toNat / 2048 := by
  have hp := p.isLt
  simp only [PackedValue.blue16, BitVec.extractLsb'_toNat, Nat.shiftRight_eq_div_pow]; omega

end Sys2Proof
end

