-- ==== Sys2Proof/Laws/Coding.lean ====
section
/-! SUPPORT. What a row of the operation table selects, field by field, and the encoder's word as a number. -/

namespace Sys2Proof

/-- A row selects a word of format C exactly when the masked fields are those of the pattern. -/
theorem selects_formC {m : Mnemonic} {pat mask : Command} {op op' opm : BitVec 4} {pol pol' polm : BitVec 2}
    {v v' vm z z' zm : BitVec 1} {y y' ym x x' xm : Coord} {d d' dm : Data}
    (hm : mask = formC opm polm vm zm ym xm dm) (hp : pat = formC op' pol' v' z' y' x' d') :
    (OpRow.mk m pat mask).selects (formC op pol v z y x d) = true ↔
      op &&& opm = op' ∧ pol &&& polm = pol' ∧ v &&& vm = v' ∧ z &&& zm = z' ∧ y &&& ym = y' ∧ x &&& xm = x' ∧
        d &&& dm = d' := by
  rw [OpRow.selects, hm, hp, beq_iff_eq, and_formC, formC_inj]

/-- The rows of sub-form C-PIX (mask 0xFD00000000000000). -/
theorem selects_pix {m : Mnemonic} {pat : Command} {op op' : BitVec 4} {pol pol' : BitVec 2} {v z : BitVec 1}
    {y x : Coord} {d : Data} (hp : pat = formC op' pol' 0 0 0 0 0) :
    (OpRow.mk m pat 0xFD00000000000000#64).selects (formC op pol v z y x d) = true ↔ op = op' ∧ pol = pol' ∧ z = 0 := by
  rw [selects_formC (show _ = formC 0xF#4 3#2 0 1 0 0 0 by decide) hp]
  have h1 : op &&& 15#4 = op := by simpa using BitVec.and_allOnes (x := op)
  have h2 : pol &&& 3#2 = pol := by simpa using BitVec.and_allOnes (x := pol)
  have h3 : z &&& 1#1 = z := by simpa using BitVec.and_allOnes (x := z)
  simp [h1, h2, h3]

/-- The rows that use V and DATA only: PACK, UNPACK. -/
theorem selects_data {m : Mnemonic} {pat mask : Command} {op op' : BitVec 4} {pol : BitVec 2} {v z : BitVec 1}
    {y x : Coord} {d dm : Data} (hm : mask = formC 0xF#4 3#2 0 1 0xFFFF#16 0xFFFF#16 dm)
    (hp : pat = formC op' 0 0 0 0 0 0) :
    (OpRow.mk m pat mask).selects (formC op pol v z y x d) = true ↔
      op = op' ∧ pol = 0 ∧ z = 0 ∧ y = 0 ∧ x = 0 ∧ d &&& dm = 0 := by
  rw [selects_formC hm hp]
  have h1 : op &&& 15#4 = op := by simpa using BitVec.and_allOnes (x := op)
  have h2 : pol &&& 3#2 = pol := by simpa using BitVec.and_allOnes (x := pol)
  have h3 : z &&& 1#1 = z := by simpa using BitVec.and_allOnes (x := z)
  have h4 : y &&& 0xFFFF#16 = y := by simpa using BitVec.and_allOnes (x := y)
  have h5 : x &&& 0xFFFF#16 = x := by simpa using BitVec.and_allOnes (x := x)
  simp [h1, h2, h3, h4, h5]

/-- The rows that use DATA only: the four table reads. -/
theorem selects_index {m : Mnemonic} {pat mask : Command} {op op' : BitVec 4} {pol : BitVec 2} {v z : BitVec 1}
    {y x : Coord} {d dm : Data} (hm : mask = formC 0xF#4 3#2 1 1 0xFFFF#16 0xFFFF#16 dm)
    (hp : pat = formC op' 0 0 0 0 0 0) :
    (OpRow.mk m pat mask).selects (formC op pol v z y x d) = true ↔
      op = op' ∧ pol = 0 ∧ v = 0 ∧ z = 0 ∧ y = 0 ∧ x = 0 ∧ d &&& dm = 0 := by
  rw [selects_formC hm hp]
  have h1 : op &&& 15#4 = op := by simpa using BitVec.and_allOnes (x := op)
  have h2 : pol &&& 3#2 = pol := by simpa using BitVec.and_allOnes (x := pol)
  have h3 : z &&& 1#1 = z := by simpa using BitVec.and_allOnes (x := z)
  have h4 : y &&& 0xFFFF#16 = y := by simpa using BitVec.and_allOnes (x := y)
  have h5 : x &&& 0xFFFF#16 = x := by simpa using BitVec.and_allOnes (x := x)
  have h6 : v &&& 1#1 = v := by simpa using BitVec.and_allOnes (x := v)
  simp [h1, h2, h3, h4, h5, h6]

theorem selects_pack {op : BitVec 4} {pol : BitVec 2} {v z : BitVec 1} {y x : Coord} {d : Data} :
    (OpRow.mk .pack 0x1000000000000000#64 0xFDFFFFFFFF000000#64).selects (formC op pol v z y x d) = true ↔
      op = 1 ∧ pol = 0 ∧ z = 0 ∧ y = 0 ∧ x = 0 := by
  rw [selects_data (dm := 0) (by decide) (show _ = formC 1 0 0 0 0 0 0 by decide)]
  simp

theorem selects_unpack {op : BitVec 4} {pol : BitVec 2} {v z : BitVec 1} {y x : Coord} {d : Data} :
    (OpRow.mk .unpack 0x2000000000000000#64 0xFDFFFFFFFFFF0000#64).selects (formC op pol v z y x d) = true ↔
      op = 2 ∧ pol = 0 ∧ z = 0 ∧ y = 0 ∧ x = 0 ∧ d.toNat < 65536 := by
  rw [selects_data (dm := 0xFF0000#24) (by decide) (show _ = formC 2 0 0 0 0 0 0 by decide)]
  exact and_congr Iff.rfl (and_congr Iff.rfl (and_congr Iff.rfl (and_congr Iff.rfl (and_congr Iff.rfl (data_above16 d)))))

theorem selects_scd {m : Mnemonic} {pat : Command} {op op' : BitVec 4} {pol : BitVec 2} {v z : BitVec 1} {y x : Coord}
    {d : Data} (hp : pat = formC op' 0 0 0 0 0 0) :
    (OpRow.mk m pat 0xFFFFFFFFFFFFFF00#64).selects (formC op pol v z y x d) = true ↔
      op = op' ∧ pol = 0 ∧ v = 0 ∧ z = 0 ∧ y = 0 ∧ x = 0 ∧ d.toNat < 256 := by
  rw [selects_index (dm := 0xFFFF00#24) (by decide) hp, ← data_above8]
  exact Iff.rfl

theorem selects_scu5 {op : BitVec 4} {pol : BitVec 2} {v z : BitVec 1} {y x : Coord} {d : Data} :
    (OpRow.mk .scu5 0xA000000000000000#64 0xFFFFFFFFFFFFFFE0#64).selects (formC op pol v z y x d) = true ↔
      op = 10 ∧ pol = 0 ∧ v = 0 ∧ z = 0 ∧ y = 0 ∧ x = 0 ∧ d.toNat < 32 := by
  rw [selects_index (dm := 0xFFFFE0#24) (by decide) (show _ = formC 10 0 0 0 0 0 0 by decide), ← data_above5]
  exact Iff.rfl

theorem selects_scu6 {op : BitVec 4} {pol : BitVec 2} {v z : BitVec 1} {y x : Coord} {d : Data} :
    (OpRow.mk .scu6 0xB000000000000000#64 0xFFFFFFFFFFFFFFC0#64).selects (formC op pol v z y x d) = true ↔
      op = 11 ∧ pol = 0 ∧ v = 0 ∧ z = 0 ∧ y = 0 ∧ x = 0 ∧ d.toNat < 64 := by
  rw [selects_index (dm := 0xFFFFC0#24) (by decide) (show _ = formC 11 0 0 0 0 0 0 by decide), ← data_above6]
  exact Iff.rfl

/-- Decoding answers an operation exactly when some row is the first that selects the word. -/
theorem decode_ok_iff (w : Command) (i : Instr) :
    decode w = .ok i ↔ ∃ r, selectRow w = some r ∧ readOperands r.mnemonic w = i := by
  unfold decode
  cases selectRow w <;> simp

/-- Decoding rejects a word exactly when no row selects it, and by the one name. -/
theorem decode_error_iff (w : Command) (e : ErrorKind) :
    decode w = .error e ↔ e = .illegalCommand ∧ ∀ r ∈ opTable, r.selects w = false := by
  have hnone : selectRow w = none ↔ ∀ r ∈ opTable, r.selects w = false := by
    unfold selectRow; generalize opTable = rows; simp
  rw [← hnone]
  unfold decode
  cases selectRow w <;> simp [eq_comm]

end Sys2Proof
end

