-- ==== Sys2Proof/Laws/State.lean ====
section
/-! SUPPORT. One lemma per field per update of the state, so that no later proof unfolds a record update. -/

namespace Sys2Proof.Machine

@[simp] theorem State.deliver_params (s : State) (r : Response) : (s.deliver r).params = s.params := rfl
@[simp] theorem State.deliver_pending (s : State) (r : Response) : (s.deliver r).pending = s.pending := rfl
@[simp] theorem State.deliver_responses (s : State) (r : Response) :
    (s.deliver r).responses = s.responses ++ [r] := rfl
@[simp] theorem State.deliver_buffer (s : State) (r : Response) : (s.deliver r).buffer = s.buffer := rfl
@[simp] theorem State.deliver_phase (s : State) (r : Response) : (s.deliver r).phase = s.phase := rfl
@[simp] theorem State.deliver_freeCount (s : State) (r : Response) : (s.deliver r).freeCount = s.freeCount := rfl

@[simp] theorem State.issue_params (s : State) (w : Command) : (s.issue w).params = s.params := rfl
@[simp] theorem State.issue_pending (s : State) (w : Command) : (s.issue w).pending = s.pending ++ [w] := rfl
@[simp] theorem State.issue_responses (s : State) (w : Command) : (s.issue w).responses = s.responses := rfl
@[simp] theorem State.issue_buffer (s : State) (w : Command) : (s.issue w).buffer = s.buffer := rfl
@[simp] theorem State.issue_phase (s : State) (w : Command) : (s.issue w).phase = s.phase := rfl
@[simp] theorem State.issue_freeCount (s : State) (w : Command) : (s.issue w).freeCount = s.freeCount := rfl

@[simp] theorem State.placeCommand_params (s : State) (w : Command) : (s.placeCommand w).params = s.params := rfl
@[simp] theorem State.placeCommand_pending (s : State) (w : Command) :
    (s.placeCommand w).pending = w :: s.pending := rfl
@[simp] theorem State.placeCommand_responses (s : State) (w : Command) :
    (s.placeCommand w).responses = s.responses := rfl
@[simp] theorem State.placeCommand_buffer (s : State) (w : Command) : (s.placeCommand w).buffer = s.buffer := rfl
@[simp] theorem State.placeCommand_phase (s : State) (w : Command) : (s.placeCommand w).phase = s.phase := rfl
@[simp] theorem State.placeCommand_freeCount (s : State) (w : Command) :
    (s.placeCommand w).freeCount = s.freeCount := rfl

@[simp] theorem State.failQimg_params (s : State) (st : Status) : (s.failQimg st).params = s.params := rfl
@[simp] theorem State.failQimg_pending (s : State) (st : Status) : (s.failQimg st).pending = s.pending := rfl
@[simp] theorem State.failQimg_responses (s : State) (st : Status) : (s.failQimg st).responses = s.responses := rfl
@[simp] theorem State.failQimg_phase (s : State) (st : Status) : (s.failQimg st).phase = .failed st := rfl
@[simp] theorem State.failQimg_freeCount (s : State) (st : Status) :
    (s.failQimg st).freeCount = s.freeCount + s.buffer.length := rfl
@[simp] theorem State.failQimg_buffer_length (s : State) (st : Status) :
    (s.failQimg st).buffer.length = s.buffer.length := by
  simp [State.failQimg, freeColours]

@[simp] theorem State.built_params (p : Params) : (State.built p).params = p := rfl
@[simp] theorem State.built_pending (p : Params) : (State.built p).pending = [] := rfl
@[simp] theorem State.built_responses (p : Params) : (State.built p).responses = [] := rfl
@[simp] theorem State.built_buffer (p : Params) : (State.built p).buffer = [] := rfl
@[simp] theorem State.built_phase (p : Params) : (State.built p).phase = .idle := rfl

@[simp] theorem State.reset_params : State.reset.params = defaultParams := rfl
@[simp] theorem State.reset_pending : State.reset.pending = [] := rfl
@[simp] theorem State.reset_responses : State.reset.responses = [] := rfl
@[simp] theorem State.reset_buffer : State.reset.buffer = [] := rfl
@[simp] theorem State.reset_phase : State.reset.phase = .idle := rfl
@[simp] theorem State.reset_freeCount : State.reset.freeCount = 0 := rfl
theorem State.reset_eq_built : State.reset = State.built defaultParams := rfl

@[simp] theorem defaultParams_tables : defaultParams.tables = defaultTables := rfl
@[simp] theorem defaultParams_stoRound : defaultParams.stoRound = .floor := rfl

end Sys2Proof.Machine
end

