-- ==== Sys2Proof/Laws/Ops.lean ====
section
/-! SUPPORT. What the shared operations and one step can do, said once: the port, the meanings (every one of them
delivers one response), the transaction, the host's moves, and the bounds of the dither arithmetic. -/

namespace Sys2Proof.Machine

/-- The block takes the oldest command, and nothing else changes. -/
theorem takeCommand_eq_some {s s' : State} {w : Command} :
    s.takeCommand = some (w, s') ↔ ∃ rest, s.pending = w :: rest ∧ s' = { s with pending := rest } := by
  unfold State.takeCommand
  cases h : s.pending with
  | nil => simp
  | cons w' rest => simp [eq_comm]

theorem takeCommand_eq_none {s : State} : s.takeCommand = none ↔ s.pending = [] := by
  unfold State.takeCommand
  cases s.pending <;> simp

theorem takeCommand_placeCommand (s : State) (w : Command) : (s.placeCommand w).takeCommand = some (w, s) := rfl

/-- The host takes the oldest response, and nothing else changes. -/
theorem takeResponse_eq_some {s s' : State} {r : Response} :
    s.takeResponse = some (r, s') ↔ ∃ rest, s.responses = r :: rest ∧ s' = { s with responses := rest } := by
  unfold State.takeResponse
  cases h : s.responses with
  | nil => simp
  | cons r' rest => simp [eq_comm]

theorem takeResponse_eq_none {s : State} : s.takeResponse = none ↔ s.responses = [] := by
  unfold State.takeResponse
  cases s.responses <;> simp

theorem respond_eq (s : State) (d : Data) : s.respond d = s.deliver (okResponse d) := rfl

theorem raise_eq (s : State) (e : ErrorKind) : s.raise e = s.deliver (errorResponse e) := rfl

theorem respondColour_ok (s : State) (c : RgbColor) :
    s.respondColour (.ok c) = s.deliver (okResponse (dataOfColour c)) := rfl

theorem respondColour_error (s : State) (e : ErrorKind) : s.respondColour (.error e) = s.deliver (errorResponse e) := rfl

/-- The response of an operation, as the meanings of its family compute it from the parameters. -/
def responseOf (prm : Params) : Instr → Response
  | .pack v c => okResponse (dataOfPacked (packValue prm.tables v c))
  | .unpack v p => colourResponse (unpackValue prm.tables v p)
  | .dithN v x y c => okResponse (dataOfColour (dither prm .none v x y c))
  | .dithO v x y c => okResponse (dataOfColour (dither prm .ordered v x y c))
  | .dithS v x y c => okResponse (dataOfColour (dither prm .stochastic v x y c))
  | .quantN v x y c => colourResponse (quantPix prm .none v x y c)
  | .quantO v x y c => colourResponse (quantPix prm .ordered v x y c)
  | .quantS v x y c => colourResponse (quantPix prm .stochastic v x y c)
  | .scd5 k => okResponse (dataOfIndex (prm.tables.down5At k))
  | .scd6 k => okResponse (dataOfIndex (prm.tables.down6At k))
  | .scu5 b => okResponse (dataOfIndex (prm.tables.up5At b))
  | .scu6 b => okResponse (dataOfIndex (prm.tables.up6At b))
where
  colourResponse : Except ErrorKind RgbColor → Response
    | .ok c => okResponse (dataOfColour c)
    | .error e => errorResponse e

theorem respondColour_eq (s : State) (o : Except ErrorKind RgbColor) :
    s.respondColour o = s.deliver (responseOf.colourResponse o) := by
  cases o <;> rfl

/-- Every meaning delivers one response, a function of the operation and the parameters, and changes nothing else. -/
theorem exec_eq_deliver (i : Instr) (s : State) : exec i s = .next (s.deliver (responseOf s.params i)) := by
  cases i <;> simp only [exec, execPack, execUnpack, execDithN, execDithO, execDithS, execQuantN, execQuantO, execQuantS,
    execScd5, execScd6, execScu5, execScu6, responseOf, respondColour_eq, State.respond]

/-- A step with a command pending is a transaction with the oldest. -/
theorem step_pending {s : State} {w : Command} {rest : List Command} (h : s.pending = w :: rest) :
    step s = transaction w { s with pending := rest } := by
  rw [step, takeCommand_eq_some.mpr ⟨rest, h, rfl⟩]

/-- A step with no command pending is a move of the host. -/
theorem step_empty {s : State} (h : s.pending = []) : step s = hostMove s := by
  rw [step, takeCommand_eq_none.mpr h]

/-- A transaction with a legal word executes the operation it decodes to. -/
theorem transaction_ok {w : Command} {i : Instr} (h : decode w = .ok i) (s : State) : transaction w s = exec i s := by
  rw [transaction, h]

/-- A transaction with an illegal word is answered with the error, and nothing else happens. -/
theorem transaction_error {w : Command} {e : ErrorKind} (h : decode w = .error e) (s : State) :
    transaction w s = .next (s.deliver (errorResponse e)) := by
  rw [transaction, h]; rfl

/-- A transaction always ends in a next state that differs by one delivered response. -/
theorem transaction_delivers (w : Command) (s : State) : ∃ r, transaction w s = .next (s.deliver r) := by
  cases h : decode w with
  | ok i => exact ⟨_, by rw [transaction_ok h, exec_eq_deliver]⟩
  | error e => exact ⟨_, transaction_error h s⟩

/-- What a step of the host that issues can do: return Ok, or issue the command of the pixel at hand. -/
theorem hostIssue_next {q : QimgRun} {s t : State} (h : hostIssue q s = .next t) :
    (runDone q = true ∧ t = { s with phase := .finished }) ∨
      (runDone q = false ∧ ∃ c, s.buffer[runIndex q]? = some c ∧
        t = { s with pending := s.pending ++ [runCommand q c], phase := .waiting q }) := by
  unfold hostIssue at h
  split at h
  · left; cases h; exact ⟨‹_›, rfl⟩
  · split at h
    · cases h
    · right; cases h; exact ⟨Bool.eq_false_iff.mpr ‹¬runDone q = true›, _, ‹_›, rfl⟩

/-- What a step of the host that waits can do: wait on, write an element back, or end with the error. -/
theorem hostCollect_next {q : QimgRun} {s t : State} (h : hostCollect q s = .next t) :
    (s.responses = [] ∧ t = s) ∨
      ∃ r rest, s.responses = r :: rest ∧
        ((Response.statusField r = statusOk ∧
            t = { s with responses := rest, buffer := s.buffer.set (runIndex q) (colourOfData (Response.dataField r)),
                         phase := .issuing (runAdvance q) }) ∨
          (Response.statusField r ≠ statusOk ∧
            t = { s with responses := rest }.failQimg (Response.statusField r))) := by
  unfold hostCollect at h
  split at h
  · left; cases h; exact ⟨takeResponse_eq_none.mp ‹_›, rfl⟩
  · obtain ⟨rest, h1, rfl⟩ := takeResponse_eq_some.mp ‹_›
    right
    refine ⟨_, rest, h1, ?_⟩
    split at h
    · left; cases h; exact ⟨‹_›, rfl⟩
    · right; cases h; exact ⟨‹_›, rfl⟩

/-- The ordered bucket is in the range of a 5-bit channel (R134: "no clamp is needed"). -/
theorem ordBucket5_lt (k : Threshold) (c : Channel) : ordBucket 5 k c < 32 := by
  have := k.isLt; have := c.isLt
  unfold ordBucket; omega

/-- The ordered bucket is in the range of a 6-bit channel (R134). -/
theorem ordBucket6_lt (k : Threshold) (c : Channel) : ordBucket 6 k c < 64 := by
  have := k.isLt; have := c.isLt
  unfold ordBucket; omega

/-- The clamp of R137 keeps q' in 0..L. -/
theorem stochLevel_le (levels : Nat) (m : Mask) (c : Channel) : stochLevel levels m c ≤ levels := Nat.min_le_right _ _

/-- Scaling back never leaves the channel's range, under either rounding (R137). -/
theorem scaleBack_lt (round : StoRound) {levels q : Nat} (hl : 0 < levels) (hq : q ≤ levels) :
    scaleBack round levels q < 256 := by
  cases round with
  | floor => rw [scaleBack, Nat.div_lt_iff_lt_mul hl]; omega
  | nearest => rw [scaleBack, Nat.div_lt_iff_lt_mul (by omega)]; omega

/-- The stochastic function as a number (R137). -/
theorem toNat_stoch (round : StoRound) {levels : Nat} (hl : 0 < levels) (m : Mask) (c : Channel) :
    (stoch round levels m c).toNat = scaleBack round levels (stochLevel levels m c) := by
  rw [stoch, BitVec.toNat_ofNat, Nat.mod_eq_of_lt (scaleBack_lt round hl (stochLevel_le levels m c))]

end Sys2Proof.Machine
end

