-- ==== Sys2Proof/Laws/PerInstr.lean ====
section
/-! SUPPORT. The family `EncodeSelectsRow`: the word the encoder writes for an operation is selected by the row of
rule R69 that bears the operation's mnemonic. One lemma per constructor of `Instr`. -/

namespace Sys2Proof.Laws.EncodeSelectsRow

/-- The encoder's word matches the operation's own row (R69). -/
def Statement (i : Instr) : Prop := ∃ r ∈ opTable, r.mnemonic = i.mnemonic ∧ r.selects (encode i) = true

theorem pack (v : Variant) (c : RgbColor) : Statement (.pack v c) :=
  ⟨opTable[0], List.getElem_mem _, rfl, selects_pack.mpr (by simp)⟩

theorem unpack (v : Variant) (p : PackedValue) : Statement (.unpack v p) :=
  ⟨opTable[1], List.getElem_mem _, rfl, selects_unpack.mpr (by have := p.isLt; simp [toNat_dataOfPacked]; omega)⟩

theorem dithN (v : Variant) (x y : Coord) (c : RgbColor) : Statement (.dithN v x y c) :=
  ⟨opTable[2], List.getElem_mem _, rfl, (selects_pix (op' := 3) (pol' := 0) (by decide)).mpr (by simp [DitherPolicy.code])⟩

theorem dithO (v : Variant) (x y : Coord) (c : RgbColor) : Statement (.dithO v x y c) :=
  ⟨opTable[3], List.getElem_mem _, rfl, (selects_pix (op' := 3) (pol' := 1) (by decide)).mpr (by simp [DitherPolicy.code])⟩

theorem dithS (v : Variant) (x y : Coord) (c : RgbColor) : Statement (.dithS v x y c) :=
  ⟨opTable[4], List.getElem_mem _, rfl, (selects_pix (op' := 3) (pol' := 2) (by decide)).mpr (by simp [DitherPolicy.code])⟩

theorem quantN (v : Variant) (x y : Coord) (c : RgbColor) : Statement (.quantN v x y c) :=
  ⟨opTable[5], List.getElem_mem _, rfl, (selects_pix (op' := 4) (pol' := 0) (by decide)).mpr (by simp [DitherPolicy.code])⟩

theorem quantO (v : Variant) (x y : Coord) (c : RgbColor) : Statement (.quantO v x y c) :=
  ⟨opTable[6], List.getElem_mem _, rfl, (selects_pix (op' := 4) (pol' := 1) (by decide)).mpr (by simp [DitherPolicy.code])⟩

theorem quantS (v : Variant) (x y : Coord) (c : RgbColor) : Statement (.quantS v x y c) :=
  ⟨opTable[7], List.getElem_mem _, rfl, (selects_pix (op' := 4) (pol' := 2) (by decide)).mpr (by simp [DitherPolicy.code])⟩

theorem scd5 (k : Channel) : Statement (.scd5 k) :=
  ⟨opTable[8], List.getElem_mem _, rfl, (selects_scd (op' := 8) (by decide)).mpr (by have := k.isLt; simp [toNat_dataOfIndex]; omega)⟩

theorem scd6 (k : Channel) : Statement (.scd6 k) :=
  ⟨opTable[9], List.getElem_mem _, rfl, (selects_scd (op' := 9) (by decide)).mpr (by have := k.isLt; simp [toNat_dataOfIndex]; omega)⟩

theorem scu5 (b : Bucket5) : Statement (.scu5 b) :=
  ⟨opTable[10], List.getElem_mem _, rfl, selects_scu5.mpr (by have := b.isLt; simp [toNat_dataOfIndex]; omega)⟩

theorem scu6 (b : Bucket6) : Statement (.scu6 b) :=
  ⟨opTable[11], List.getElem_mem _, rfl, selects_scu6.mpr (by have := b.isLt; simp [toNat_dataOfIndex]; omega)⟩

end Sys2Proof.Laws.EncodeSelectsRow
end

