-- ==== Sys2Proof/Laws/Sharing.lean ====
section
/-! SUPPORT. What the operations over several copies can do, said once for each: the operations on the copies, the three
moves of a sharing, and the host's count of open commands. -/

namespace Sys2Proof.Machine

/-! ### The copies -/

theorem Replicas.issueTo_eq {r : Replicas} {k : Nat} {s : State} (h : r.copies[k]? = some s) (w : Command) :
    r.issueTo k w = { copies := r.copies.set k (s.issue w) } := by
  rw [Replicas.issueTo, h]

/-- A step of copy k is the step of its state, and no other copy changes. -/
theorem Replicas.stepCopy_eq_some {r r' : Replicas} {k : Nat} :
    r.stepCopy k = some r' ↔
      ∃ s s', r.copies[k]? = some s ∧ step s = .next s' ∧ r' = { copies := r.copies.set k s' } := by
  constructor
  · intro h
    unfold Replicas.stepCopy at h
    split at h
    · cases h
    · split at h <;> cases h
      exact ⟨_, _, ‹_›, ‹_›, rfl⟩
  · rintro ⟨s, s', hs, hstep, rfl⟩
    rw [Replicas.stepCopy, hs]
    simp only [hstep]

/-- Taking a response from copy k takes its oldest one, and nothing else changes. -/
theorem Replicas.takeFrom_eq_some {r r' : Replicas} {k : Nat} {rsp : Response} :
    r.takeFrom k = some (rsp, r') ↔
      ∃ s rest, r.copies[k]? = some s ∧ s.responses = rsp :: rest ∧
        r' = { copies := r.copies.set k { s with responses := rest } } := by
  constructor
  · intro h
    unfold Replicas.takeFrom at h
    split at h
    · cases h
    · split at h <;> cases h
      obtain ⟨rest, hrest, rfl⟩ := takeResponse_eq_some.mp ‹_›
      exact ⟨_, rest, ‹_›, hrest, rfl⟩
  · rintro ⟨s, rest, hs, hrest, rfl⟩
    rw [Replicas.takeFrom, hs]
    simp only [takeResponse_eq_some.mpr ⟨rest, hrest, rfl⟩]

/-- No response is taken from copy k only where it has none. -/
theorem Replicas.takeFrom_eq_none {r : Replicas} {k : Nat} {s : State} (h : r.copies[k]? = some s) :
    r.takeFrom k = none ↔ s.responses = [] := by
  rw [Replicas.takeFrom, h, ← takeResponse_eq_none]
  cases hr : s.takeResponse <;> simp [hr]

/-- A block whose host runs no sequence, with nothing pending: its step changes nothing. -/
theorem step_atRest {s : State} (hp : s.pending = []) (hr : s.phase.atRest = true) : step s = .next s := by
  rw [step_empty hp, hostMove]
  cases hq : s.phase with
  | idle => rfl
  | issuing q => rw [hq] at hr; cases hr
  | waiting q => rw [hq] at hr; cases hr
  | finished => rfl
  | failed st => rfl

/-! ### The host's count of open commands -/

/-- The elements of copy k's open commands, the oldest first. -/
def openAt (given : List OpenCommand) (k : Nat) : List (Option Nat) :=
  (given.filter (fun o => o.copy == k)).map OpenCommand.element

@[simp] theorem openAt_nil (k : Nat) : openAt [] k = [] := rfl

theorem openAt_append (a b : List OpenCommand) (k : Nat) : openAt (a ++ b) k = openAt a k ++ openAt b k := by
  simp [openAt]

theorem openAt_snoc_same (given : List OpenCommand) (e : Option Nat) (k : Nat) :
    openAt (given ++ [{ element := e, copy := k }]) k = openAt given k ++ [e] := by
  simp [openAt]

theorem openAt_snoc_other (given : List OpenCommand) (e : Option Nat) {j k : Nat} (h : k ≠ j) :
    openAt (given ++ [{ element := e, copy := j }]) k = openAt given k := by
  simp [openAt, Ne.symm h]

/-- The oldest open command of copy k is the head of its queue, and dropping it leaves the queue's tail. -/
theorem openAt_find {given : List OpenCommand} {k : Nat} {o : OpenCommand}
    (h : given.find? (fun o => o.copy == k) = some o) :
    openAt given k = o.element :: openAt (given.eraseP (fun o => o.copy == k)) k := by
  induction given with
  | nil => cases h
  | cons a rest ih =>
    by_cases ha : a.copy = k
    · simp only [List.find?_cons, ha, beq_self_eq_true, Option.some.injEq] at h
      subst h
      simp [openAt, ha]
    · simp only [List.find?_cons, beq_eq_false_iff_ne.mpr ha] at h
      have := ih h
      simp only [openAt] at this ⊢
      simp [ha, this]

theorem openAt_find_none {given : List OpenCommand} {k : Nat} (h : given.find? (fun o => o.copy == k) = none) :
    openAt given k = [] := by
  simp only [List.find?_eq_none, beq_iff_eq] at h
  simp only [openAt, List.map_eq_nil_iff, List.filter_eq_nil_iff, beq_iff_eq]
  exact h

/-- Dropping copy j's oldest open command leaves the other copies' queues. -/
theorem openAt_erase_other (given : List OpenCommand) {j k : Nat} (h : k ≠ j) :
    openAt (given.eraseP (fun o => o.copy == j)) k = openAt given k := by
  induction given with
  | nil => rfl
  | cons a rest ih =>
    by_cases ha : a.copy = j
    · simp [openAt, ha, Ne.symm h]
    · simp only [openAt] at ih ⊢
      by_cases hk : a.copy = k <;> simp [ha, hk, ih, h]

/-- At the start copy k's queue counts the responses and the commands on its port. -/
theorem openAt_earlierCommands {copies : List State} {k : Nat} {s : State} (h : copies[k]? = some s) :
    openAt (earlierCommands copies) k = List.replicate (s.responses.length + s.pending.length) none := by
  suffices key : ∀ n, openAt ((copies.zipIdx n).flatMap (fun e =>
      List.replicate (e.1.responses.length + e.1.pending.length) { element := none, copy := e.2 })) (n + k) =
      List.replicate (s.responses.length + s.pending.length) none by
    simpa [earlierCommands] using key 0
  have above : ∀ (cs : List State) (n m : Nat), n < m → openAt ((cs.zipIdx m).flatMap (fun e =>
      List.replicate (e.1.responses.length + e.1.pending.length) { element := none, copy := e.2 })) n = [] := by
    intro cs
    induction cs with
    | nil => intros; rfl
    | cons c rest ih =>
      intro n m hnm
      rw [List.zipIdx_cons, List.flatMap_cons, openAt_append, ih n (m + 1) (by omega)]
      simp [openAt, show m ≠ n by omega]
  induction copies generalizing k with
  | nil => cases h
  | cons c rest ih =>
    intro n
    rw [List.zipIdx_cons, List.flatMap_cons, openAt_append]
    cases k with
    | zero =>
      simp only [List.getElem?_cons_zero, Option.some.injEq] at h
      subst h
      rw [Nat.add_zero, above rest n (n + 1) (by omega)]
      simp [openAt]
    | succ k =>
      have := ih (by simpa using h) (n + 1)
      rw [show n + (k + 1) = n + 1 + k by omega, this]
      simp [openAt, show n ≠ n + 1 + k by omega]

/-! ### The moves -/

/-- Giving an element's command puts it on copy k's port and at the end of the host's count. -/
theorem Sharing.give_eq {p : DitherPolicy} {im : ImageMetadata} {h : Sharing} {i k : Nat} {s : State} {c : RgbColor}
    (hs : h.system.copies[k]? = some s) (hc : h.buffer[i]? = some c) :
    h.give p im i k = .ok { h with
      system := { copies := h.system.copies.set k (s.issue (encode (pixelInstr p im i c))) },
      given := h.given ++ [{ element := some i, copy := k }] } := by
  have hk : ¬ h.system.copies.length ≤ k := by
    have := (List.getElem?_eq_some_iff.mp hs).1
    omega
  rw [Sharing.give, if_neg hk, hc]
  simp only [Replicas.issueTo_eq hs]

/-- A run of copy k is a step of its state. -/
theorem Sharing.run_eq {h : Sharing} {k : Nat} {s s' : State} (hs : h.system.copies[k]? = some s)
    (hstep : step s = .next s') : h.run k = .ok { h with system := { copies := h.system.copies.set k s' } } := by
  rw [Sharing.run, Replicas.stepCopy_eq_some.mpr ⟨s, s', hs, hstep, rfl⟩]

/-- With no response at copy k the host waits. -/
theorem Sharing.take_nothing {h : Sharing} {k : Nat} {s : State} (hs : h.system.copies[k]? = some s)
    (hr : s.responses = []) : h.take k = .ok h := by
  rw [Sharing.take, (Replicas.takeFrom_eq_none hs).mpr hr]

/-- A response to other work is put aside. -/
theorem Sharing.take_other {h : Sharing} {k : Nat} {s : State} {rsp : Response} {rest : List Response}
    {o : OpenCommand} (hs : h.system.copies[k]? = some s) (hr : s.responses = rsp :: rest)
    (ho : h.given.find? (fun o => o.copy == k) = some o) (he : o.element = none) :
    h.take k = .ok { h with system := { copies := h.system.copies.set k { s with responses := rest } },
                            given := h.given.eraseP (fun o => o.copy == k) } := by
  rw [Sharing.take, Replicas.takeFrom_eq_some.mpr ⟨s, rest, hs, hr, rfl⟩, ho]
  simp only [he]

/-- A colour is written to the element whose command it answers. -/
theorem Sharing.take_colour {h : Sharing} {k i : Nat} {s : State} {rsp : Response} {rest : List Response}
    {o : OpenCommand} (hs : h.system.copies[k]? = some s) (hr : s.responses = rsp :: rest)
    (ho : h.given.find? (fun o => o.copy == k) = some o) (he : o.element = some i)
    (hok : Response.statusField rsp = statusOk) :
    h.take k = .ok { system := { copies := h.system.copies.set k { s with responses := rest } },
                     given := h.given.eraseP (fun o => o.copy == k),
                     buffer := h.buffer.set i (colourOfData (Response.dataField rsp)) } := by
  rw [Sharing.take, Replicas.takeFrom_eq_some.mpr ⟨s, rest, hs, hr, rfl⟩, ho]
  simp only [he, hok, if_true]

theorem Sharing.moves_cons {p : DitherPolicy} {im : ImageMetadata} {m : ShareMove} {h h' : Sharing}
    (hm : h.move p im m = .ok h') (rest : List ShareMove) :
    Sharing.moves p im (m :: rest) h = Sharing.moves p im rest h' := by
  rw [Sharing.moves, hm]

end Sys2Proof.Machine
end

