-- ==== Sys2Proof/Tests/Slice0.lean ====
section
/-! SUPPORT. The model's own tests. Every expected value is a vector of spec/95_test_vectors.md (its id stands in the
comment) or is written out from the encoding of rules R61 to R69. Then, for every statement with hypotheses, a witness:
a named theorem with concrete values that meet them together, at boundary values. -/

namespace Sys2Proof.Tests

open Sys2Proof Sys2Proof.Machine

/-- The machine after reset with these command words given. -/
def given (ws : List Command) : State := { State.reset with pending := ws }

/-- The response of this hardware to a command word. -/
def answerOf (w : Command) : Option Response := transact defaultParams w

/-- The machine with a host that holds this buffer. -/
def holding (buf : List RgbColor) : State := { State.reset with buffer := buf }

/-- The state of an outcome, if it is a next state. -/
def next? : Host.Outcome State Fault Refusal → Option State
  | .next s => some s
  | .fault _ => none
  | .refused _ => none

/-! ### Well-formedness: each check refuses a term that breaks it (R74, R75, R26) -/

theorem test_wf_variant_missing : (AsmLine.mk .pack [.number 16, .colour 1 2 3]).wellFormed = false := by decide

theorem test_wf_coordinate_range :
    (AsmLine.mk .dithN [.variant .v15, .number 65536, .number 0, .colour 1 2 3]).wellFormed = false ∧
    (AsmLine.mk .dithN [.variant .v15, .number 0, .number 65536, .colour 1 2 3]).wellFormed = false ∧
    (AsmLine.mk .dithN [.variant .v15, .number 65535, .number 65535, .colour 1 2 3]).wellFormed = true := by decide

theorem test_wf_colour_range :
    (AsmLine.mk .pack [.variant .v16, .colour 256 0 0]).wellFormed = false ∧
    (AsmLine.mk .pack [.variant .v16, .colour 0 256 0]).wellFormed = false ∧
    (AsmLine.mk .pack [.variant .v16, .colour 0 0 256]).wellFormed = false ∧
    (AsmLine.mk .pack [.variant .v16, .colour 255 255 255]).wellFormed = true := by decide

theorem test_wf_packed_range :
    (AsmLine.mk .unpack [.variant .v16, .packed 0x10000]).wellFormed = false ∧
    (AsmLine.mk .unpack [.variant .v16, .packed 0xFFFF]).wellFormed = true := by decide

theorem test_wf_index_range :
    (AsmLine.mk .scd5 [.number 256]).wellFormed = false ∧ (AsmLine.mk .scd6 [.number 256]).wellFormed = false ∧
    (AsmLine.mk .scu5 [.number 32]).wellFormed = false ∧ (AsmLine.mk .scu6 [.number 64]).wellFormed = false ∧
    (AsmLine.mk .scu6 [.number 63]).wellFormed = true := by decide

theorem test_wf_operand_count :
    (AsmLine.mk .scu5 []).wellFormed = false ∧ (AsmLine.mk .scu5 [.number 1, .number 1]).wellFormed = false := by decide

theorem test_wf_qimg :
    (QimgLine.mk .none .v16 65536 1 ['B']).wellFormed = false ∧ (QimgLine.mk .none .v16 1 65536 ['B']).wellFormed = false ∧
    (QimgLine.mk .none .v16 1 1 []).wellFormed = false ∧ (QimgLine.mk .none .v16 65535 0 ['B']).wellFormed = true := by decide

/-- A bucket whose representative scales down to another bucket: refused by R26 (a). -/
theorem test_wf_fixed5 : ¬ Tables.Lawful { defaultTables with up5 := Vector.replicate 32 0 } :=
  fun h => absurd (h.fixed5 31) (by decide)

theorem test_wf_fixed6 : ¬ Tables.Lawful { defaultTables with up6 := Vector.replicate 64 0 } :=
  fun h => absurd (h.fixed6 63) (by decide)

/-- A matrix that holds one threshold twice is no permutation (R25); it lacks another. -/
theorem test_wf_bayer_once : ¬ Tables.Lawful { defaultTables with bayer := Vector.replicate 64 0 } :=
  fun h => absurd (h.bayerOnce 0 0 0 1 (by decide)) (by decide)

theorem test_wf_bayer_onto : ¬ Tables.Lawful { defaultTables with bayer := Vector.replicate 64 0 } :=
  fun h => absurd (h.bayerOnto 63) (by decide)

/-! ### Decoding: one word of each operation, bit by bit from rule R69's patterns -/

/-- P20: OP 1, V 1, b 0x32, g 0x64, r 0xC8. -/
theorem test_decode_pack : decode 0x12000000003264C8 = .ok (.pack .v16 ⟨200, 100, 50⟩) := by decide

/-- U9 -/
theorem test_decode_unpack : decode 0x2200000000001234 = .ok (.unpack .v16 0x1234) := by decide

/-- DN1: y 9 in bits 55:40, x 5 in bits 39:24. -/
theorem test_decode_dithN : decode 0x3000090005030201 = .ok (.dithN .v15 5 9 ⟨1, 2, 3⟩) := by decide

/-- DO8: POL 1. -/
theorem test_decode_dithO : decode 0x36000200033264C8 = .ok (.dithO .v16 3 2 ⟨200, 100, 50⟩) := by decide

/-- DS10: POL 2, the largest coordinates. -/
theorem test_decode_dithS : decode 0x3AFFFFFFFF1E140A = .ok (.dithS .v16 65535 65535 ⟨10, 20, 30⟩) := by decide

/-- QN2 -/
theorem test_decode_quantN : decode 0x420000000100FF00 = .ok (.quantN .v16 1 0 ⟨0, 255, 0⟩) := by decide

/-- DO7 -/
theorem test_decode_quantO : decode 0x44000200033264C8 = .ok (.quantO .v15 3 2 ⟨200, 100, 50⟩) := by decide

/-- DS14 -/
theorem test_decode_quantS : decode 0x4A000100CCFEFEFE = .ok (.quantS .v16 204 1 ⟨254, 254, 254⟩) := by decide

/-- T8 -/
theorem test_decode_scd5 : decode 0x80000000000000FA = .ok (.scd5 250) := by decide

/-- T16 -/
theorem test_decode_scd6 : decode 0x90000000000000FC = .ok (.scd6 252) := by decide

/-- T23 -/
theorem test_decode_scu5 : decode 0xA00000000000001E = .ok (.scu5 30) := by decide

/-- T30 -/
theorem test_decode_scu6 : decode 0xB00000000000003E = .ok (.scu6 62) := by decide

/-- A word that decodes to no operation. -/
abbrev refused (w : Command) : Prop := decode w = .error .illegalCommand

/-- IL1 to IL8 -/
theorem test_illegal_words_1 :
    refused 0x0000000000000000 ∧ refused 0x5000000000000000 ∧ refused 0xC000000000000000 ∧ refused 0xFFFFFFFFFFFFFFFF ∧
    refused 0x3C00000000808080 ∧ refused 0x4E00000000000000 ∧ refused 0x1100000000000000 ∧ refused 0x3100000000000000 := by decide

/-- IL9 to IL16 -/
theorem test_illegal_words_2 :
    refused 0x1000000001010203 ∧ refused 0x1400000000000000 ∧ refused 0x2000000000010000 ∧ refused 0x2000000000018000 ∧
    refused 0x8000000000000100 ∧ refused 0x8200000000000001 ∧ refused 0xA000000000000020 ∧ refused 0xB000000000000040 := by decide

/-- A field that PACK or UNPACK does not use (R71), and reserved OP codes. -/
theorem test_illegal_stray_fields_1 :
    refused 0x1800000000000000 ∧ refused 0x1000010000000000 ∧ refused 0x10FF000000000000 ∧ refused 0x2400000000000000 ∧
    refused 0x2000000001000000 ∧ refused 0x2000010000000000 ∧ refused 0x6000000000000000 ∧ refused 0x7000000000000000 := by decide

/-- A field that a table read does not use (R71), and reserved OP codes. -/
theorem test_illegal_stray_fields_2 :
    refused 0x8400000000000000 ∧ refused 0x8000000001000000 ∧ refused 0x9000010000000000 ∧ refused 0xA200000000000000 ∧
    refused 0xB100000000000000 ∧ refused 0xD000000000000000 ∧ refused 0xE000000000000000 ∧ refused 0xF000000000000000 := by decide

/-- IL12: IllegalCommand, not InvalidValue (R186). -/
theorem test_illegal_answer : answerOf 0x2000000000018000 = some 0x20000000 := by decide

/-- The two host functions on a row of spec/opcode_table.json (64 bits). -/
theorem test_decodeTableWord : decodeTableWord 64 0x12000000003264C8 = some (.pack .v16 ⟨200, 100, 50⟩) ∧
    decodeTableWord 64 0 = none := by decide

theorem test_withFetchWord :
    next? (step (State.reset.withFetchWord 64 0x12000000003264C8)) = some (State.reset.answered 0x3338) := rfl

/-! ### One transaction of each operation -/

/-- P9, P11, P20, P22: the words that the losing reading (C1) would answer otherwise. -/
theorem test_pack : answerOf 0x10000000003264C8 = some 0x1998 ∧ answerOf 0x1000000000FCFBFA = some 0x7FFE ∧
    answerOf 0x12000000003264C8 = some 0x3338 ∧ answerOf 0x1200000000FCFBFA = some 0xFFDE := by decide

/-- P6, P10, P17, P21 -/
theorem test_pack_boundaries : answerOf 0x10000000000C0504 = some 0x0420 ∧ answerOf 0x1000000000020307 = some 0x0001 ∧
    answerOf 0x12000000000C0504 = some 0x0820 ∧ answerOf 0x1200000000020307 = some 0x0021 := by decide

/-- U2, U5, U8, U9 -/
theorem test_unpack : answerOf 0x2000000000007FFF = some 0x00FFFFFF ∧ answerOf 0x2200000000008000 = some 0x00840000 ∧
    answerOf 0x2000000000001234 = some 0x00218CA5 ∧ answerOf 0x2200000000001234 = some 0x001045A5 := by decide

/-- U3, U4: InvalidValue. -/
theorem test_unpack_reserved_bit : answerOf 0x2000000000008000 = some 0x10000000 ∧
    answerOf 0x200000000000FFFF = some 0x10000000 := by decide

/-- DN1, DN3 -/
theorem test_dithN : answerOf 0x3000090005030201 = some 0x00030201 ∧ answerOf 0x32FFFFFFFFFFFFFF = some 0x00FFFFFF := by
  decide

/-- DO3, DO4: the row is y mod 8, the column x mod 8. -/
theorem test_dithO : answerOf 0x3600010000808080 = some 0x00848284 ∧ answerOf 0x3600070007808080 = some 0x007B7D7B := by
  decide

/-- DO8, DO10, DO11, DO18 -/
theorem test_dithO_thresholds : answerOf 0x36000200033264C8 = some 0x003165C5 ∧
    answerOf 0x36FFFFFFFF010101 = some 0x00000000 ∧ answerOf 0x3400070000010101 = some 0x00080808 ∧
    answerOf 0x3600000002040404 = some 0x00000400 := by decide

/-- DS5, DS6, DS7, DS10 -/
theorem test_dithS : answerOf 0x3A000000B9000000 = some 0x00070307 ∧ answerOf 0x38000000B9000000 = some 0x00070707 ∧
    answerOf 0x3A000000023264C8 = some 0x003767CF ∧ answerOf 0x3AFFFFFFFF1E140A = some 0x001F1307 := by decide

/-- ST1, ST4, ST7, ST9: the last column of the vectors under STO_ROUND = nearest, the one before it under floor. -/
theorem test_dithS_rounding : (stoch .floor 32 255 0 = 7 ∧ stoch .nearest 32 255 0 = 8) ∧
    (stoch .floor 32 255 255 = 255 ∧ stoch .nearest 32 255 255 = 255) ∧
    (stoch .floor 32 0 128 = 127 ∧ stoch .nearest 32 0 128 = 128) ∧
    stoch .floor 32 238 128 = 127 ∧ stoch .nearest 32 238 128 = 128 := by decide

/-- QN3, QN4, QN5, QN12 -/
theorem test_quantN : answerOf 0x40000000003264C8 = some 0x003163C5 ∧ answerOf 0x42000000003264C8 = some 0x003165C5 ∧
    answerOf 0x40000000000C0504 = some 0x00080800 ∧ answerOf 0x4200000000FCFBFA = some 0x00FFFBF7 := by decide

/-- DO7, DO12, DO13, DO18 -/
theorem test_quantO : answerOf 0x44000200033264C8 = some 0x003163C5 ∧ answerOf 0x4600070000010101 = some 0x00080408 ∧
    answerOf 0x4400000000080808 = some 0x00000000 ∧ answerOf 0x4600000002040404 = some 0x00000400 := by decide

/-- DS3, DS7, DS8, DS10 -/
theorem test_quantS : answerOf 0x4800000001808080 = some 0x007B7B7B ∧ answerOf 0x4A000000023264C8 = some 0x003A65CE ∧
    answerOf 0x48000000023264C8 = some 0x003A6BCE ∧ answerOf 0x4AFFFFFFFF1E140A = some 0x00211408 := by decide

/-- T2, T3, T8, T9 -/
theorem test_scd5 : answerOf 0x8000000000000004 = some 0 ∧ answerOf 0x8000000000000005 = some 1 ∧
    answerOf 0x80000000000000FA = some 30 ∧ answerOf 0x80000000000000FB = some 31 := by decide

/-- T12, T13, T16, T17 -/
theorem test_scd6 : answerOf 0x9000000000000002 = some 0 ∧ answerOf 0x9000000000000003 = some 1 ∧
    answerOf 0x90000000000000FC = some 62 ∧ answerOf 0x90000000000000FD = some 63 := by decide

/-- T20, T21, T22, T24 -/
theorem test_scu5 : answerOf 0xA000000000000001 = some 8 ∧ answerOf 0xA00000000000000F = some 123 ∧
    answerOf 0xA000000000000010 = some 132 ∧ answerOf 0xA00000000000001F = some 255 := by decide

/-- T26, T27, T29, T31 -/
theorem test_scu6 : answerOf 0xB000000000000001 = some 4 ∧ answerOf 0xB00000000000000B = some 45 ∧
    answerOf 0xB000000000000020 = some 130 ∧ answerOf 0xB00000000000003F = some 255 := by decide

/-! ### The port, the host and the assembler -/

/-- R49, R187: the oldest command is answered, behind the responses before it, and the next one waits. -/
theorem test_port_order :
    next? (step { given [0x2000000000008000, 0x12000000003264C8] with responses := [7] }) =
      some { given [0x12000000003264C8] with responses := [7, 0x10000000] } := rfl

/-- R166: the host issues the command of pixel (1, 0) of a 2×1 image (program 1, QN2). -/
theorem test_qimg_issue :
    next? (step { holding [⟨255, 0, 0⟩, ⟨0, 255, 0⟩] with phase := .issuing ⟨.none, ⟨.v16, 2, 1⟩, 1, 0⟩ }) =
      some { holding [⟨255, 0, 0⟩, ⟨0, 255, 0⟩] with
        phase := .waiting ⟨.none, ⟨.v16, 2, 1⟩, 1, 0⟩, pending := [0x420000000100FF00] } := rfl

/-- R166: the host writes the colour to the element it came from and goes on to the next row. -/
theorem test_qimg_collect :
    next? (step { holding [⟨1, 2, 3⟩, ⟨4, 5, 6⟩] with
        phase := .waiting ⟨.ordered, ⟨.v15, 1, 2⟩, 0, 0⟩, responses := [0x00030201] }) =
      some { holding [⟨1, 2, 3⟩, ⟨4, 5, 6⟩] with phase := .issuing ⟨.ordered, ⟨.v15, 1, 2⟩, 0, 1⟩ } := rfl

/-- The one fault: a buffer that has not `w*h` elements (log entry 9). -/
theorem test_qimg_element_missing :
    step { holding [] with phase := .issuing ⟨.none, ⟨.v16, 2, 1⟩, 0, 0⟩ } = .fault .qimgElementMissing := rfl

/-- Program 1, P20, U17, T1 of the assembler's text (R74, R75); an index out of range is refused. -/
theorem test_assembler_text :
    assembleText "PACK    v16, (200,100,50)".toList = some 0x12000000003264C8 ∧
    assembleText "UNPACK v16, 0x3338".toList = some 0x2200000000003338 ∧
    assembleText "DITH.N v15, 5, 9, (1,2,3)".toList = some 0x3000090005030201 ∧
    assembleText "SCU5 32".toList = none ∧
    qimgLineOfText "QIMG.N v16, 2, 1, B".toList = some ⟨.none, .v16, 2, 1, ['B']⟩ := by decide

/-- R74: the textual form of a response (P20, QN4, T8, U3, IL1). -/
theorem test_response_text :
    responseText .pack 0x00003338 = some "OK 0x3338".toList ∧
    responseText .quantN 0x003165C5 = some "OK (197,101,49)".toList ∧
    responseText .scd5 0x0000001E = some "OK 30".toList ∧
    responseText .unpack 0x10000000 = some "ERR InvalidValue".toList ∧
    responseText .unpack 0x20000000 = some "ERR IllegalCommand".toList := by decide

/-- R65: the variant characters '5' and '6', and another byte. -/
theorem test_variant_bytes : variantOfByte 0x35 = some .v15 ∧ variantOfByte 0x36 = some .v16 ∧ variantOfByte 0x37 = none := by
  decide

/-! ### Witnesses of the statements' hypotheses -/

/-- The tables of this hardware are lawful: FixedPointThroughOperations, QuantizationIsIdempotent and every other
statement whose one hypothesis is `Lawful`. -/
theorem witness_lawful : defaultTables.Lawful := ⟨by decide +kernel, by decide +kernel, by decide +kernel, by decide +kernel⟩

/-- EveryStepKeepsSafety, RunsFromSafeStatesAreSafe: the state after reset with any two commands given. -/
theorem witness_inv : (given [0x2000000000008000, 0]).Inv := ⟨witness_lawful, by simp [given, State.reset], trivial⟩

/-- The same, in the middle of a QIMG sequence. -/
theorem witness_inv_qimg :
    State.Inv { holding [⟨200, 100, 50⟩] with
      phase := .waiting ⟨.none, ⟨.v16, 1, 1⟩, 0, 0⟩, pending := [0x42000000003264C8] } :=
  ⟨witness_lawful, by simp [holding, State.reset], by decide, by decide, by decide,
    Or.inl ⟨⟨200, 100, 50⟩, by decide, by decide, by decide⟩⟩

/-- TablesAreConstant: a step that answers next, of the block and of the host. -/
theorem witness_step_next : step (given [0x12000000003264C8]) = .next (State.reset.answered 0x3338) ∧
    step State.reset = .next State.reset := ⟨rfl, rfl⟩

/-- ResetTablesObeyLaws, OrderedChannelLaws: comparable channels, buckets and thresholds. -/
theorem witness_order : (0 : Channel) ≤ 255 ∧ (30 : Bucket5) < 31 ∧ (62 : Bucket6) < 63 ∧ (0 : Threshold) ≤ 63 := by decide

/-- ResetMatrixIsBayer: 21 stands at row 7, column 7 (TH4). -/
theorem witness_bayer : State.reset.params.tables.bayerAt 7 7 = 21 := by decide

/-- EncodeDecode: a word that decodes, with every operand bit set. -/
theorem witness_encodeDecode : decode 0x4AFFFFFFFFFFFFFF = .ok (.quantS .v16 65535 65535 ⟨255, 255, 255⟩) := by decide

/-- RowsDoNotOverlap, DecodingIsTotal: a word that a row selects, and a word that no row selects. -/
theorem witness_rows : (∃ r ∈ opTable, r.selects 0x220000000000FFFF = true) ∧
    (∃ r ∈ opTable, (0x220000000000FFFF : Command) &&& r.mask = r.pattern) ∧
    ∀ r ∈ opTable, (0x2200000000010000 : Command) &&& r.mask ≠ r.pattern := by decide

/-- IllegalWordsAreExactlyTheListed: an illegal word that waits on the port. -/
theorem witness_illegal : (given [0xB000000000000040]).pending = 0xB000000000000040 :: [] ∧
    decode 0xB000000000000040 = .error .illegalCommand := by decide

/-- StepRunsDecodedCommand. -/
theorem witness_stepRuns : (given [0x80000000000000FF]).pending = 0x80000000000000FF :: [] ∧
    decode 0x80000000000000FF = .ok (.scd5 255) := by decide

/-- ErrorEntryIsOneResponse: both kinds of error, met by a step. -/
theorem witness_errorEntry :
    (step (given [0x2000000000008000]) = .next (State.reset.answered 0x10000000) ∧
      step (given [0]) = .next (State.reset.answered 0x20000000)) ∧
    Response.statusField 0x10000000 ≠ 0 ∧ Response.statusField 0x20000000 ≠ 0 := ⟨⟨rfl, rfl⟩, by decide⟩

/-- WhichOperationRaisesWhat: a word that decodes to no operation; an UNPACK that raises InvalidValue, one that does not. -/
theorem witness_raises : (∀ i, decode 0x3C00000000808080 ≠ .ok i) ∧ (0x8000 ≤ (0x8000 : PackedValue).toNat) ∧
    ¬ 0x8000 ≤ (0x7FFF : PackedValue).toNat := by
  refine ⟨fun i h => ?_, by decide, by decide⟩
  rw [show decode 0x3C00000000808080 = .error .illegalCommand by decide] at h
  cases h

/-- DecodeErrorsComeFirst: the words at the ends of the ranges, 0x8000, 0xFFFF, stray bits 16, 56, 58 and 59. -/
theorem witness_decodeFirst :
    ((0x8000 ≤ 0x8000 ∧ 0x8000 < 0x10000) ∧ 0x8000 ≤ 0xFFFF ∧ 0xFFFF < 0x10000) ∧
    (∀ stray ∈ [16, 56, 58, 59], 16 ≤ stray ∧ stray < 60 ∧ stray ≠ 57) ∧
    answerOf (BitVec.ofNat 64 (2 * 2 ^ 60 + 0xFFFF + 2 ^ 59)) = some 0x20000000 := by decide

/-- EveryResponseIsLegal, ResponseDependsOnCommandOnly. -/
theorem witness_transaction : transaction 0 State.reset = .next (State.reset.answered 0x20000000) ∧
    (given [0]).params = defaultParams ∧ (given [0]).pending = 0 :: [] := ⟨rfl, rfl, rfl⟩

/-- CommandsAnsweredInOrder: the last of the waiting commands. -/
theorem witness_order_of_port : (given [0, 1, 2]).pending[2]? = some 2 := by decide

/-- ErrorsLeaveNothingBehind: a failing command, then another. -/
theorem witness_afterError : (given [0x2000000000008000, 0x12000000003264C8]).pending = 0x2000000000008000 :: 0x12000000003264C8 :: [] ∧
    transact State.reset.params 0x2000000000008000 = some 0x10000000 ∧ Response.statusField 0x10000000 ≠ 0 := by decide

/-- NothingHappensUnasked: each of the three phases at rest. -/
theorem witness_rest : State.reset.pending = [] ∧ HostPhase.idle.atRest = true ∧ HostPhase.finished.atRest = true ∧
    (HostPhase.failed 1).atRest = true := by decide

/-- PackAnswersPackedValue, UnpackAnswersColour, the table reads, DITH.O, DITH.S, QUANT: the tables and the rounding of
the state after reset, and the two ends of UNPACK's ranges. -/
theorem witness_defaults : State.reset.params.tables = defaultTables ∧ State.reset.params.stoRound = .floor ∧
    State.reset.params = defaultParams ∧ 0x8000 ≤ (0xFFFF : PackedValue).toNat ∧ (0x7FFF : PackedValue).toNat < 0x8000 ∧
    (4 : Channel).toNat ≤ 4 := ⟨rfl, rfl, rfl, by decide⟩

/-- UnpackAnswersColour (distinct values), PackUndoesUnpack: a lawful table and a value that unpacks. -/
theorem witness_unpack : defaultTables.Lawful ∧ unpackValue defaultTables .v15 0x7FFF = .ok ⟨255, 255, 255⟩ :=
  ⟨witness_lawful, by decide⟩

/-- Scd5ReadsDown5 to Scu6ReadsUp6: a word of each operation with the lowest and the highest stray bit. -/
theorem witness_tableReads :
    (∀ w ∈ [0x8000000000000100, 0x8800000000000000], w / 2 ^ 60 = 8 ∧ w / 2 ^ 8 % 2 ^ 52 ≠ 0) ∧
    (∀ w ∈ [0x9000000000000100, 0x9800000000000000], w / 2 ^ 60 = 9 ∧ w / 2 ^ 8 % 2 ^ 52 ≠ 0) ∧
    (∀ w ∈ [0xA000000000000020, 0xA800000000000000], w / 2 ^ 60 = 10 ∧ w / 2 ^ 5 % 2 ^ 55 ≠ 0) ∧
    ∀ w ∈ [0xB000000000000040, 0xB800000000000000], w / 2 ^ 60 = 11 ∧ w / 2 ^ 6 % 2 ^ 54 ≠ 0 := by decide

/-- DithOAddsBayerThreshold, DitherIsPeriodic: k = 32 at (1, 0); positions a period apart. -/
theorem witness_ordered : thr defaultTables 1 0 = 32 ∧ (65535 : Coord).toNat % 8 = (7 : Coord).toNat % 8 ∧
    (65535 : Coord).toNat % 256 = (255 : Coord).toNat % 256 := by decide

/-- DithSFloorsMaskedLevels, QuantSRoundsDithS: a position with m = 255, at (204, 1) (SM12). -/
theorem witness_mask255 : ((204 : Coord).toNat + 237 * (1 : Coord).toNat) * 119 % 256 = 255 := by decide

/-- StochasticChannelFunction, StochasticChannelLaws: both levels, the last 256 columns, the last row. -/
theorem witness_levels : (32 = 32 ∨ 32 = 64) ∧ (64 = 32 ∨ 64 = 64) ∧ (65535 < 2 ^ 16 ∧ 65280 + 256 ≤ 2 ^ 16) ∧
    (254 : Mask).toNat ≤ 254 ∧ (0 : Mask) ≤ 255 := by decide

/-- ChannelsAreIndependent: two colours that agree in one channel only. -/
theorem witness_channels : (RgbColor.mk 1 2 3).g = (RgbColor.mk 9 2 8).g ∧ RgbColor.mk 1 2 3 ≠ RgbColor.mk 9 2 8 := by decide

/-- QuantFailureIsHandledAndDead: a packed value that UNPACK refuses. -/
theorem witness_refused : 0x8000 ≤ (0x8000 : PackedValue).toNat ∧
    quantFinish defaultTables .v15 0x8000 = .error .invalidValue := by decide

/-- QuantNIsFixedPoint, FileHoldsTheQuantizedPixel: a pixel and its quantization (QN4). -/
theorem witness_quantPix : defaultParams.tables.Lawful ∧
    quantPix defaultParams .none .v16 0 0 ⟨200, 100, 50⟩ = .ok ⟨197, 101, 49⟩ := ⟨witness_lawful, by decide⟩

/-- QimgQuantizesTheImage, QimgExpansion: a host ready for a 2×1 image, and its last pixel. -/
theorem witness_qimg : ((holding [⟨255, 0, 0⟩, ⟨0, 255, 0⟩]).startQimg .none ⟨.v16, 2, 1⟩).isSome = true ∧
    1 < (2 : BitVec 16).toNat ∧ 0 < (1 : BitVec 16).toNat ∧
    [RgbColor.mk 255 0 0, ⟨0, 255, 0⟩].length = (2 : BitVec 16).toNat * (1 : BitVec 16).toNat := by decide

/-- EmptyImageIssuesNothing: width 0, height 0. -/
theorem witness_emptyImage : (State.reset.startQimg .ordered ⟨.v15, 0, 65535⟩).isSome = true ∧
    (State.reset.startQimg .ordered ⟨.v15, 65535, 0⟩).isSome = true := by decide

/-- PixelOrderDoesNotMatter: two pixels in the other order. -/
theorem witness_pixelOrder : [1, 0].Perm (List.range 2) ∧
    [RgbColor.mk 200 100 50, ⟨4, 5, 12⟩].length = (2 : BitVec 16).toNat * (1 : BitVec 16).toNat := by decide

/-- Two copies, the first with a command of other work pending and a response of other work not taken. -/
def twoCopies : Replicas := { copies := [{ given [0] with responses := [7] }, State.reset] }

/-- CopiesDoNotMatter: the copies, moves and jobs over both of them. -/
theorem witness_copies : twoCopies.sharing defaultParams ∧ (∀ s ∈ twoCopies.copies, s.phase.atRest = true) ∧
    ([ShareMove.give 1 0, .run 0, .give 0 1, .take 0].filterMap ShareMove.element).Perm (List.range 2) ∧
    (∀ m ∈ [ShareMove.give 1 0, .run 0, .give 0 1, .take 0], m.copy < twoCopies.copies.length) ∧
    ([(1, 0), (0, 1)].map Prod.fst).Perm (List.range 2) ∧
    ∀ j ∈ [(1, 0), (0, 1)], j.2 < twoCopies.copies.length := by
  refine ⟨⟨by simp [twoCopies], ?_⟩, by decide, by decide, by decide, by decide, by decide⟩
  intro s hs
  simp only [twoCopies, List.mem_cons, List.not_mem_nil, or_false] at hs
  rcases hs with rfl | rfl <;> rfl

/-- CopiesDoNotMatter, with no command left open, on QN4 and QN6: copy 0 answers its other work first. -/
theorem witness_copies_settled :
    (match Sharing.moves .none ⟨.v16, 2, 1⟩
        [.give 1 0, .give 0 1, .run 1, .take 0, .run 0, .take 1, .take 0, .run 0, .take 0, .take 0]
        (Sharing.start twoCopies [⟨200, 100, 50⟩, ⟨4, 5, 12⟩]) with
      | .ok h => some (h.given, h.buffer)
      | .error _ => none) = some ([], [⟨197, 101, 49⟩, ⟨0, 4, 8⟩]) := by decide +kernel

/-- An element that is not there, and a copy that is not there. -/
theorem test_sharing_stops :
    (match Sharing.moves .none ⟨.v16, 2, 1⟩ [.give 2 0] (Sharing.start twoCopies [⟨0, 0, 0⟩, ⟨0, 0, 0⟩]) with
      | .ok _ => none
      | .error e => some e) = some QimgStop.noElement ∧
    (match Sharing.moves .none ⟨.v16, 2, 1⟩ [.give 1 2] (Sharing.start twoCopies [⟨0, 0, 0⟩, ⟨0, 0, 0⟩]) with
      | .ok _ => none
      | .error e => some e) = some QimgStop.noAnswer := by decide

/-- QuantOAnswersAsDithO: a colour, its QUANT.O result and the result of that, at one position. -/
theorem test_quantO_not_idempotent :
    quantPix defaultParams .ordered .v15 0 0 ⟨9, 9, 9⟩ = .ok ⟨8, 8, 8⟩ ∧
    quantPix defaultParams .ordered .v15 0 0 ⟨8, 8, 8⟩ = .ok ⟨0, 0, 0⟩ := by decide

/-- CopiesAreIndependent: each of two copies makes a step, one after the other. -/
theorem witness_twoCopies : (((Replicas.mk [given [0], given [0x80000000000000FF]]).stepCopy 0).bind
    (fun cps => cps.stepCopy 1)).isSome = true := by decide

/-- FailedQimgReturnsStatus: a host that waits, and a response with ST = 1. -/
theorem witness_failed :
    let s : State := { holding [⟨1, 2, 3⟩] with phase := .waiting ⟨.none, ⟨.v15, 1, 1⟩, 0, 0⟩, responses := [0x10000000] }
    s.pending = [] ∧ s.phase = .waiting ⟨.none, ⟨.v15, 1, 1⟩, 0, 0⟩ ∧ s.responses = 0x10000000 :: [] ∧
      Response.statusField 0x10000000 ≠ 0 := by decide

/-- AssemblerAgreesWithOperations: a line that is assembled, with the largest operands, and one that is not. -/
theorem witness_assembles : assemble ⟨.scu6, [.number 63]⟩ = some (.scu6 63) ∧ assemble ⟨.scu6, [.number 64]⟩ = none := by
  decide

end Sys2Proof.Tests
end

section
/-! PROOFS. DITH.S under either value of STO_ROUND: a delivered colour as the number of its response word, the
stochastic mask as a number, and the whole effect of DITH.S in the arithmetic of R137. -/

namespace Sys2Proof.Machine

/-- Delivering a colour with status OK answers with its DATA word (R66, R67, R182), and nothing else changes. -/
theorem deliver_okResponse_dataOfColour (s : State) (c : RgbColor) :
    s.deliver (okResponse (dataOfColour c)) =
      s.answered (c.r.toNat + c.g.toNat * 2 ^ 8 + c.b.toNat * 2 ^ 16) := by
  have hword : (dataOfColour c).toNat = c.r.toNat + c.g.toNat * 2 ^ 8 + c.b.toNat * 2 ^ 16 := by
    rw [toNat_dataOfColour]; omega
  rw [okResponse_eq_ofNat, hword, State.deliver, State.answered]

/-- The mask of R136 loses nothing when it is stored in eight bits. -/
theorem toNat_smask (x y : Coord) : (smask x y).toNat = (x.toNat + 237 * y.toNat) * 119 % 256 := by
  rw [smask, BitVec.toNat_ofNat, Nat.mod_mod]

theorem greenLevels_pos (v : Variant) : 0 < greenLevels v := by
  cases v <;> decide

/-- DITH.S answers each channel's level scaled back by the build's rounding (R132, R137); the response word holds each
channel unreduced, since `scaleBack` stays below 256 under either rounding. -/
theorem exec_dithS_eq_answered (v : Variant) (x y : Coord) (c : RgbColor) (s : State) :
    exec (.dithS v x y c) s =
      .next (s.answered
        (scaleBack s.params.stoRound 32 (stochLevel 32 (smask x y) c.r) +
          scaleBack s.params.stoRound (greenLevels v) (stochLevel (greenLevels v) (smask x y) c.g) * 2 ^ 8 +
          scaleBack s.params.stoRound 32 (stochLevel 32 (smask x y) c.b) * 2 ^ 16)) := by
  rw [exec_eq_deliver, responseOf, deliver_okResponse_dataOfColour]
  simp only [dither, ditherStochastic, toNat_stoch _ (greenLevels_pos v), toNat_stoch _ (show 0 < 32 by decide)]

/-- Settles O35: the whole effect of DITH.S, read once under each rounding and each depth of green. -/
theorem dithSCompletesUnderEitherRounding : Obligations.DithSCompletesUnderEitherRounding := by
  intro v x y c s
  rw [exec_dithS_eq_answered]
  simp only [stochLevel, toNat_smask]
  cases s.params.stoRound with
  | floor => cases v <;> rfl
  | nearest => cases v <;> rfl

end Sys2Proof.Machine
end

section
/-! PROOFS. The five tables this hardware holds: their printed contents (R21 to R25), and the laws of R26. Only the
generating formulas (c) are compared with the tables entry by entry; the other laws are arithmetic on the formulas. -/

namespace Sys2Proof

/-! ### The printed contents -/

/-- Numbers below `2^w` are read back from their `w`-bit words as they were written. -/
theorem map_toNat_map_ofNat {w : Nat} {rows : List Nat} (h : ∀ n ∈ rows, n < 2 ^ w) :
    (rows.map (BitVec.ofNat w)).map BitVec.toNat = rows := by
  rw [List.map_map]
  refine (List.map_congr_left fun n hn => ?_).trans (List.map_id rows)
  rw [Function.comp_apply, BitVec.toNat_ofNat, Nat.mod_eq_of_lt (h n hn), id]

theorem defaultTables_down5_toNat : defaultTables.down5.toList.map BitVec.toNat = down5Rows :=
  map_toNat_map_ofNat (by decide +kernel)

theorem defaultTables_down6_toNat : defaultTables.down6.toList.map BitVec.toNat = down6Rows :=
  map_toNat_map_ofNat (by decide +kernel)

theorem defaultTables_up5_toNat : defaultTables.up5.toList.map BitVec.toNat = up5Rows :=
  map_toNat_map_ofNat (by decide)

theorem defaultTables_up6_toNat : defaultTables.up6.toList.map BitVec.toNat = up6Rows :=
  map_toNat_map_ofNat (by decide)

theorem defaultTables_bayer_toNat : defaultTables.bayer.toList.map BitVec.toNat = bayerRows :=
  map_toNat_map_ofNat (by decide)

/-! ### The generating formulas, R26 (c) -/

theorem toNat_down5At_default (i : Channel) :
    (defaultTables.down5At i).toNat = (2 * i.toNat * 31 + 255) / 510 := by
  revert i; decide

theorem toNat_down6At_default (i : Channel) :
    (defaultTables.down6At i).toNat = (2 * i.toNat * 63 + 255) / 510 := by
  revert i; decide

theorem toNat_up5At_default (b : Bucket5) :
    (defaultTables.up5At b).toNat = (2 * b.toNat * 255 + 31) / (2 * 31) := by
  revert b; decide

theorem toNat_up6At_default (b : Bucket6) :
    (defaultTables.up6At b).toNat = (2 * b.toNat * 255 + 63) / (2 * 63) := by
  revert b; decide

/-! ### R26 (a), (b), (e) and (f) from the formulas -/

/-- R26 (a), 5 bits. -/
theorem down5At_up5At_default (b : Bucket5) : defaultTables.down5At (defaultTables.up5At b) = b := by
  apply BitVec.eq_of_toNat_eq
  have hb := b.isLt
  rw [toNat_down5At_default, toNat_up5At_default]
  omega

/-- R26 (a), 6 bits. -/
theorem down6At_up6At_default (b : Bucket6) : defaultTables.down6At (defaultTables.up6At b) = b := by
  apply BitVec.eq_of_toNat_eq
  have hb := b.isLt
  rw [toNat_down6At_default, toNat_up6At_default]
  omega

/-- Rounding `m/255` to an integer by `(2*m + 255)/510` gives the integer nearest to it, for R26 (b) at either depth. -/
theorem round255_nearest (m b : Nat) :
    (255 * (((2 * m + 255) / 510 : Nat) : Int) - m).natAbs ≤ (255 * (b : Int) - m).natAbs := by
  omega

/-- R26 (b), 5 bits. -/
theorem down5At_default_nearest (i : Channel) (b : Bucket5) :
    (255 * ((defaultTables.down5At i).toNat : Int) - 31 * i.toNat).natAbs ≤
      (255 * (b.toNat : Int) - 31 * i.toNat).natAbs := by
  rw [toNat_down5At_default, show 2 * i.toNat * 31 = 2 * (31 * i.toNat) by omega]
  exact_mod_cast round255_nearest (31 * i.toNat) b.toNat

/-- R26 (b), 6 bits. -/
theorem down6At_default_nearest (i : Channel) (b : Bucket6) :
    (255 * ((defaultTables.down6At i).toNat : Int) - 63 * i.toNat).natAbs ≤
      (255 * (b.toNat : Int) - 63 * i.toNat).natAbs := by
  rw [toNat_down6At_default, show 2 * i.toNat * 63 = 2 * (63 * i.toNat) by omega]
  exact_mod_cast round255_nearest (63 * i.toNat) b.toNat

/-- R26 (e), the down tables do not decrease. -/
theorem downAt_default_mono {i j : Channel} (h : i ≤ j) :
    defaultTables.down5At i ≤ defaultTables.down5At j ∧ defaultTables.down6At i ≤ defaultTables.down6At j := by
  simp only [BitVec.le_def, toNat_down5At_default, toNat_down6At_default] at h ⊢
  omega

/-- R26 (e), UP5 increases strictly. -/
theorem up5At_default_strictMono {a b : Bucket5} (h : a < b) : defaultTables.up5At a < defaultTables.up5At b := by
  simp only [BitVec.lt_def, toNat_up5At_default] at h ⊢
  omega

/-- R26 (e), UP6 increases strictly. -/
theorem up6At_default_strictMono {a b : Bucket6} (h : a < b) : defaultTables.up6At a < defaultTables.up6At b := by
  simp only [BitVec.lt_def, toNat_up6At_default] at h ⊢
  omega

/-- R26 (f), 5 bits: the chosen bucket's representative is at most 4 away, any other bucket's at least 4. -/
theorem up5At_down5At_default_nearest (i : Channel) (b : Bucket5) :
    (((defaultTables.up5At (defaultTables.down5At i)).toNat : Int) - i.toNat).natAbs ≤
      (((defaultTables.up5At b).toNat : Int) - i.toNat).natAbs := by
  have hd := toNat_down5At_default i
  obtain hlt | heq | hgt := lt_trichotomy b.toNat (defaultTables.down5At i).toNat
  · rw [toNat_up5At_default, toNat_up5At_default]; omega
  · rw [BitVec.eq_of_toNat_eq heq]
  · rw [toNat_up5At_default, toNat_up5At_default]; omega

/-- R26 (f), 6 bits: the chosen bucket's representative is at most 2 away, any other bucket's at least 2. -/
theorem up6At_down6At_default_nearest (i : Channel) (b : Bucket6) :
    (((defaultTables.up6At (defaultTables.down6At i)).toNat : Int) - i.toNat).natAbs ≤
      (((defaultTables.up6At b).toNat : Int) - i.toNat).natAbs := by
  have hd := toNat_down6At_default i
  obtain hlt | heq | hgt := lt_trichotomy b.toNat (defaultTables.down6At i).toNat
  · rw [toNat_up6At_default, toNat_up6At_default]; omega
  · rw [BitVec.eq_of_toNat_eq heq]
  · rw [toNat_up6At_default, toNat_up6At_default]; omega

/-- R26 (d): a tie would make an even number odd. -/
theorem no_rounding_tie (i j : Nat) :
    2 * i * 31 ≠ 255 * (2 * j + 1) ∧ 2 * i * 63 ≠ 255 * (2 * j + 1) ∧ 510 * i ≠ 31 * (2 * j + 1) ∧
      510 * i ≠ 63 * (2 * j + 1) := by
  omega

/-- Settles O2: the formulas (c), and the other laws, which follow from them. -/
theorem resetTablesObeyLaws : Obligations.ResetTablesObeyLaws :=
  ⟨⟨down5At_up5At_default, down6At_up6At_default⟩, ⟨down5At_default_nearest, down6At_default_nearest⟩,
    ⟨fun i => ⟨toNat_down5At_default i, toNat_down6At_default i⟩, toNat_up5At_default, toNat_up6At_default⟩,
    no_rounding_tie, ⟨by decide, by decide, fun _ _ => downAt_default_mono, fun _ _ => up5At_default_strictMono,
      fun _ _ => up6At_default_strictMono⟩, up5At_down5At_default_nearest, up6At_down6At_default_nearest⟩

/-! ### The dither matrix, R25 -/

theorem bayerRows_getElem?_default (row col : BitVec 3) :
    bayerRows[8 * row.toNat + col.toNat]? = some (defaultTables.bayerAt row col).toNat := by
  revert row col; decide

/-- The row of a threshold: the low bits of its three base-4 digits, the lowest digit choosing the largest quadrant. -/
def bayerRow (k : Threshold) : BitVec 3 := k.extractLsb' 0 1 ++ k.extractLsb' 2 1 ++ k.extractLsb' 4 1

/-- The column of a threshold: in `M2 = [[0, 2], [3, 1]]` a digit's column is the exclusive or of its two bits. -/
def bayerCol (k : Threshold) : BitVec 3 :=
  bayerRow k ^^^ (k.extractLsb' 1 1 ++ k.extractLsb' 3 1 ++ k.extractLsb' 5 1)

theorem bayerAt_default_position (k : Threshold) : defaultTables.bayerAt (bayerRow k) (bayerCol k) = k := by
  revert k; decide

theorem position_bayerAt_default (row col : BitVec 3) :
    row = bayerRow (defaultTables.bayerAt row col) ∧ col = bayerCol (defaultTables.bayerAt row col) := by
  revert row col; decide

/-- Settles O3: the printed rows, the recursion entry by entry, and for each threshold its one position. -/
theorem resetMatrixIsBayer : Obligations.ResetMatrixIsBayer := by
  refine ⟨defaultTables_bayer_toNat, bayerRows_getElem?_default, by decide, fun k =>
    ⟨bayerRow k, bayerCol k, bayerAt_default_position k, fun row col h => ?_⟩⟩
  rw [← h]
  exact position_bayerAt_default row col

end Sys2Proof
end

section
/-! PROOFS. Decoding a word that a row of R69 selects, and with it the QUANT commands of R163. -/

namespace Sys2Proof

/-- No two rows of R69 agree in all the bits that both their masks look at. -/
theorem opTable_rows_disjoint :
    ∀ r ∈ opTable, ∀ r' ∈ opTable, r.pattern &&& r'.mask = r'.pattern &&& r.mask → r = r' := by
  decide

/-- No word matches two rows (R69): under both masks together, each row it matches holds the bits of the word. -/
theorem eq_of_selects {w : Command} {r r' : OpRow} (hr : r ∈ opTable) (hr' : r' ∈ opTable)
    (h : r.selects w = true) (h' : r'.selects w = true) : r = r' := by
  refine opTable_rows_disjoint r hr r' hr' ?_
  rw [← beq_iff_eq.mp h, ← beq_iff_eq.mp h', BitVec.and_assoc, BitVec.and_assoc, BitVec.and_comm r.mask]

/-- A word that a row selects decodes to that row's operation (R77). -/
theorem decode_of_selects {w : Command} {r : OpRow} (hr : r ∈ opTable) (h : r.selects w = true) :
    decode w = .ok (readOperands r.mnemonic w) := by
  refine (decode_ok_iff w _).mpr ⟨r, ?_, rfl⟩
  cases hsel : selectRow w with
  | none => exact absurd h (List.find?_eq_none.mp hsel r hr)
  | some r' =>
    have hr' : r' ∈ opTable := List.mem_of_find?_eq_some hsel
    have h' : r'.selects w = true := List.find?_some (p := (OpRow.selects · w)) hsel
    rw [eq_of_selects hr' hr h' h]

theorem encode_quantInstr_selects (p : DitherPolicy) (v : Variant) (x y : Coord) (c : RgbColor) :
    Laws.EncodeSelectsRow.Statement (quantInstr p v x y c) := by
  cases p with
  | none => exact Laws.EncodeSelectsRow.quantN v x y c
  | ordered => exact Laws.EncodeSelectsRow.quantO v x y c
  | stochastic => exact Laws.EncodeSelectsRow.quantS v x y c

theorem readOperands_encode_quantInstr (p : DitherPolicy) (v : Variant) (x y : Coord) (c : RgbColor) :
    readOperands (quantInstr p v x y c).mnemonic (encode (quantInstr p v x y c)) = quantInstr p v x y c := by
  cases p <;> simp [quantInstr, Instr.mnemonic, readOperands, encode]

theorem decode_encode_quantInstr (p : DitherPolicy) (v : Variant) (x y : Coord) (c : RgbColor) :
    decode (encode (quantInstr p v x y c)) = .ok (quantInstr p v x y c) := by
  obtain ⟨r, hr, hm, hsel⟩ := encode_quantInstr_selects p v x y c
  rw [decode_of_selects hr hsel, hm, readOperands_encode_quantInstr]

end Sys2Proof
end

section
/-! PROOFS. What one step does to any state: it never writes the parameters (R20, R33), every response it delivers is
legal (R67), and the QUANT command of a pixel is answered with a colour (R164). -/

namespace Sys2Proof.Machine

/-! ### Steps of the host, phase by phase -/

theorem atRest_or_issuing_or_waiting (p : HostPhase) :
    p.atRest = true ∨ (∃ q, p = .issuing q) ∨ ∃ q, p = .waiting q := by
  cases p with
  | idle => exact .inl rfl
  | issuing q => exact .inr (.inl ⟨q, rfl⟩)
  | waiting q => exact .inr (.inr ⟨q, rfl⟩)
  | finished => exact .inl rfl
  | failed st => exact .inl rfl

theorem step_issuing {s : State} {q : QimgRun} (hp : s.pending = []) (hq : s.phase = .issuing q) :
    step s = hostIssue q s := by
  rw [step_empty hp, hostMove, hq]

theorem step_waiting {s : State} {q : QimgRun} (hp : s.pending = []) (hq : s.phase = .waiting q) :
    step s = hostCollect q s := by
  rw [step_empty hp, hostMove, hq]

/-! ### The parameters are constant -/

theorem hostIssue_params {q : QimgRun} {s t : State} (h : hostIssue q s = .next t) : t.params = s.params := by
  obtain ⟨-, rfl⟩ | ⟨-, c, -, rfl⟩ := hostIssue_next h <;> rfl

theorem hostCollect_params {q : QimgRun} {s t : State} (h : hostCollect q s = .next t) : t.params = s.params := by
  obtain ⟨-, rfl⟩ | ⟨r, rest, -, ⟨-, rfl⟩ | ⟨-, rfl⟩⟩ := hostCollect_next h <;> rfl

/-- No step writes the tables or STO_ROUND (R20, R33). -/
theorem step_params {s t : State} (h : step s = .next t) : t.params = s.params := by
  cases hp : s.pending with
  | nil =>
    obtain hrest | ⟨q, hq⟩ | ⟨q, hq⟩ := atRest_or_issuing_or_waiting s.phase
    · rw [step_atRest hp hrest] at h
      cases h; rfl
    · exact hostIssue_params (step_issuing hp hq ▸ h)
    · exact hostCollect_params (step_waiting hp hq ▸ h)
  | cons w rest =>
    obtain ⟨r, hr⟩ := transaction_delivers w { s with pending := rest }
    rw [step_pending hp, hr] at h
    cases h; rfl

/-- Settles O1: the printed contents read back from the tables, and `step_params`. -/
theorem tablesAreConstant : Obligations.TablesAreConstant :=
  ⟨rfl, ⟨defaultTables_down5_toNat, defaultTables_down6_toNat, defaultTables_up5_toNat, defaultTables_up6_toNat,
    defaultTables_bayer_toNat⟩, fun _ _ => step_params⟩

/-! ### Every response is legal -/

theorem legalResponse_ok (d : Data) : LegalResponse (okResponse d) :=
  ⟨formR_zeroField _ _, .inl (formR_statusField _ _)⟩

theorem legalResponse_error (e : ErrorKind) : LegalResponse (errorResponse e) := by
  refine ⟨formR_zeroField _ _, .inr ⟨?_, formR_dataField _ _⟩⟩
  rw [errorResponse, formR_statusField]
  cases e with
  | invalidValue => exact .inl rfl
  | illegalCommand => exact .inr rfl

theorem legalResponse_colourResponse (o : Except ErrorKind RgbColor) : LegalResponse (responseOf.colourResponse o) := by
  cases o with
  | ok c => exact legalResponse_ok _
  | error e => exact legalResponse_error e

theorem legalResponse_responseOf (prm : Params) (i : Instr) : LegalResponse (responseOf prm i) := by
  cases i with
  | unpack | quantN | quantO | quantS => exact legalResponse_colourResponse _
  | pack | dithN | dithO | dithS | scd5 | scd6 | scu5 | scu6 => exact legalResponse_ok _

/-- A transaction delivers one legal response, whatever the word and the state, and changes nothing else. -/
theorem transaction_delivers_legal (w : Command) (s : State) :
    ∃ r, LegalResponse r ∧ transaction w s = .next (s.deliver r) := by
  cases h : decode w with
  | ok i => exact ⟨_, legalResponse_responseOf s.params i, by rw [transaction_ok h, exec_eq_deliver]⟩
  | error e => exact ⟨_, legalResponse_error e, transaction_error h s⟩

/-! ### The QUANT command of a pixel -/

/-- A packed value is never refused by UNPACK: PACK leaves the reserved bit of Variant15 clear (R164). -/
theorem unpackValue_packValue_ok (t : Tables) (v : Variant) (c : RgbColor) :
    ∃ c', unpackValue t v (packValue t v c) = .ok c' := by
  cases v with
  | v15 =>
    have hclear : ¬ PackedValue.reserved15 (packValue t .v15 c) = true := by
      rw [reserved15_iff, packValue, toNat_pv15]
      omega
    exact ⟨_, by rw [unpackValue, if_neg hclear]⟩
  | v16 => exact ⟨_, rfl⟩

theorem quantPix_ok (prm : Params) (p : DitherPolicy) (v : Variant) (x y : Coord) (c : RgbColor) :
    ∃ c', quantPix prm p v x y c = .ok c' := by
  obtain ⟨c', h⟩ := unpackValue_packValue_ok prm.tables v (dither prm p v x y c)
  exact ⟨c', by rw [quantPix, quantFinish, h]⟩

theorem responseOf_quantInstr (prm : Params) (p : DitherPolicy) (v : Variant) (x y : Coord) (c : RgbColor) :
    responseOf prm (quantInstr p v x y c) = responseOf.colourResponse (quantPix prm p v x y c) := by
  cases p <;> rfl

/-- The command of a pixel is answered with status OK, from any state (R163, R164). -/
theorem transaction_runCommand (q : QimgRun) (c : RgbColor) (s : State) :
    ∃ d, transaction (runCommand q c) s = .next (s.deliver (okResponse d)) := by
  obtain ⟨c', hc'⟩ := quantPix_ok s.params q.policy q.image.variant (BitVec.ofNat 16 q.x) (BitVec.ofNat 16 q.y) c
  refine ⟨dataOfColour c', ?_⟩
  rw [runCommand, transaction_ok (decode_encode_quantInstr ..), exec_eq_deliver, responseOf_quantInstr, hc']
  rfl

end Sys2Proof.Machine
end

section
/-! PROOFS. The invariant of the whole machine (R26, R67, R166, R169): kept by the answer to a command, by each move of
the host, hence by every step and along every run. -/

namespace Sys2Proof.Machine

/-! ### The loop of QIMG, R166 -/

theorem runDone_eq_false {q : QimgRun} :
    runDone q = false ↔ q.image.width ≠ 0 ∧ q.y < q.image.height.toNat := by
  simp [runDone]

theorem elementIndex_lt {w h x y : Nat} (hx : x < w) (hy : y < h) : elementIndex w x y < w * h :=
  calc y * w + x < y * w + w := Nat.add_lt_add_left hx _
    _ = w * (y + 1) := by rw [Nat.mul_succ, Nat.mul_comm]
    _ ≤ w * h := Nat.mul_le_mul_left w hy

@[simp] theorem runAdvance_image (q : QimgRun) : (runAdvance q).image = q.image := by
  unfold runAdvance; split <;> rfl

theorem runAdvance_x_lt {q : QimgRun} (h : q.x < q.image.width.toNat) :
    (runAdvance q).x < q.image.width.toNat := by
  unfold runAdvance
  split
  · assumption
  · exact Nat.zero_lt_of_lt h

theorem hostIssue_done {q : QimgRun} (h : runDone q = true) (s : State) :
    hostIssue q s = .next { s with phase := .finished } := by
  rw [hostIssue, if_pos h]

theorem hostIssue_element {q : QimgRun} {s : State} {c : RgbColor} (h : runDone q = false)
    (hc : s.buffer[runIndex q]? = some c) :
    hostIssue q s = .next { s.issue (runCommand q c) with phase := .waiting q } := by
  rw [hostIssue, if_neg (Bool.eq_false_iff.mp h), hc]

theorem hostCollect_okResponse {q : QimgRun} {s : State} {d : Data} {rest : List Response}
    (h : s.responses = okResponse d :: rest) :
    hostCollect q s = .next { s with responses := rest, buffer := s.buffer.set (runIndex q) (colourOfData d),
                                     phase := .issuing (runAdvance q) } := by
  rw [hostCollect, takeResponse_eq_some.mpr ⟨rest, h, rfl⟩]
  simp [okResponse]

/-! ### What a coherent host is, phase by phase -/

theorem hostCoherent_issuing {s : State} {q : QimgRun} (h : s.phase = .issuing q) :
    s.HostCoherent ↔ s.buffer.length = q.image.width.toNat * q.image.height.toNat ∧
      (q.x < q.image.width.toNat ∨ q.image.width = 0) ∧ s.pending = [] ∧ s.responses = [] := by
  rw [State.HostCoherent, h]

theorem hostCoherent_waiting {s : State} {q : QimgRun} (h : s.phase = .waiting q) :
    s.HostCoherent ↔ s.buffer.length = q.image.width.toNat * q.image.height.toNat ∧
      q.x < q.image.width.toNat ∧ q.y < q.image.height.toNat ∧
      ((∃ c, s.buffer[runIndex q]? = some c ∧ s.pending = [runCommand q c] ∧ s.responses = []) ∨
        (s.pending = [] ∧ ∃ d, s.responses = [okResponse d])) := by
  rw [State.HostCoherent, h]

/-- At rest only the phase matters. -/
theorem hostCoherent_of_phase_eq {s t : State} (h : s.HostCoherent) (hrest : s.phase.atRest = true)
    (ht : t.phase = s.phase) : t.HostCoherent := by
  unfold State.HostCoherent at h ⊢
  rw [ht]
  cases hq : s.phase with
  | idle => trivial
  | finished => trivial
  | issuing q => rw [hq] at hrest; cases hrest
  | waiting q => rw [hq] at hrest; cases hrest
  | failed st => rw [hq] at h; exact h

/-! ### Each kind of step keeps the invariant -/

/-- The answer to the oldest command: during a sequence that command is the pixel's, answered with status OK. -/
theorem transaction_keeps_hostCoherent {s t : State} {w : Command} {rest : List Command} (h : s.HostCoherent)
    (hp : s.pending = w :: rest) (ht : transaction w { s with pending := rest } = .next t) : t.HostCoherent := by
  obtain hrest | ⟨q, hq⟩ | ⟨q, hq⟩ := atRest_or_issuing_or_waiting s.phase
  · obtain ⟨r, hr⟩ := transaction_delivers w { s with pending := rest }
    rw [hr] at ht
    cases ht
    exact hostCoherent_of_phase_eq h hrest rfl
  · obtain ⟨-, -, hnone, -⟩ := (hostCoherent_issuing hq).mp h
    exact absurd (hp.symm.trans hnone) (List.cons_ne_nil _ _)
  · obtain ⟨hlen, hx, hy, ⟨c, -, hpend, hresp⟩ | ⟨hnone, -⟩⟩ := (hostCoherent_waiting hq).mp h
    · rw [hp] at hpend
      cases hpend
      obtain ⟨d, hd⟩ := transaction_runCommand q c { s with pending := [] }
      rw [hd] at ht
      cases ht
      have hphase : ({ s with pending := [] }.deliver (okResponse d)).phase = .waiting q := hq
      refine (hostCoherent_waiting hphase).mpr ⟨hlen, hx, hy, .inr ⟨rfl, d, ?_⟩⟩
      rw [State.deliver_responses, hresp, List.nil_append]
    · exact absurd (hp.symm.trans hnone) (List.cons_ne_nil _ _)

/-- The block's answer keeps the invariant. -/
theorem transaction_keeps_inv {s : State} {w : Command} {rest : List Command} (h : s.Inv)
    (hp : s.pending = w :: rest) :
    ∃ t, transaction w { s with pending := rest } = .next t ∧ t.Inv := by
  obtain ⟨htables, hresponses, hhost⟩ := h
  obtain ⟨r, hlegal, hr⟩ := transaction_delivers_legal w { s with pending := rest }
  refine ⟨_, hr, htables, fun r' hr' => ?_, transaction_keeps_hostCoherent hhost hp hr⟩
  obtain hold | hnew := List.mem_append.mp hr'
  · exact hresponses r' hold
  · rw [List.mem_singleton.mp hnew]
    exact hlegal

/-- A host that issues finds its element, or returns Ok. -/
theorem hostIssue_keeps_inv {s : State} {q : QimgRun} (h : s.Inv) (hq : s.phase = .issuing q) :
    ∃ t, hostIssue q s = .next t ∧ t.Inv := by
  obtain ⟨htables, hresponses, hhost⟩ := h
  obtain ⟨hlen, hx, hpend, hresp⟩ := (hostCoherent_issuing hq).mp hhost
  cases hd : runDone q with
  | true => exact ⟨_, hostIssue_done hd s, htables, hresponses, trivial⟩
  | false =>
    obtain ⟨hwidth, hy⟩ := runDone_eq_false.mp hd
    have hx : q.x < q.image.width.toNat := hx.resolve_right hwidth
    have hc : s.buffer[runIndex q]? = some (s.buffer[runIndex q]'(hlen ▸ elementIndex_lt hx hy)) :=
      List.getElem?_eq_getElem _
    refine ⟨_, hostIssue_element hd hc, htables, hresponses, (hostCoherent_waiting rfl).mpr ⟨hlen, hx, hy, ?_⟩⟩
    exact .inl ⟨_, hc, by simp [hpend], hresp⟩

/-- A host that waits, with no command pending, has its one response and goes on to the next pixel. -/
theorem hostCollect_keeps_inv {s : State} {q : QimgRun} (h : s.Inv) (hp : s.pending = [])
    (hq : s.phase = .waiting q) : ∃ t, hostCollect q s = .next t ∧ t.Inv := by
  obtain ⟨htables, -, hhost⟩ := h
  obtain ⟨hlen, hx, hy, ⟨c, -, hpend, -⟩ | ⟨-, d, hresp⟩⟩ := (hostCoherent_waiting hq).mp hhost
  · exact absurd (hpend.symm.trans hp) (List.cons_ne_nil _ _)
  · refine ⟨_, hostCollect_okResponse hresp, htables, fun _ hr => absurd hr List.not_mem_nil, ?_⟩
    refine (hostCoherent_issuing rfl).mpr ⟨?_, .inl ?_, hp, rfl⟩
    · rw [runAdvance_image, List.length_set, hlen]
    · rw [runAdvance_image]
      exact runAdvance_x_lt hx

/-- Settles O58: a step is an answer of the block, nothing at rest, or one of the host's two moves. -/
theorem everyStepKeepsSafety : Obligations.EveryStepKeepsSafety := by
  intro s h
  cases hp : s.pending with
  | cons w rest =>
    rw [step_pending hp]
    exact transaction_keeps_inv h hp
  | nil =>
    obtain hrest | ⟨q, hq⟩ | ⟨q, hq⟩ := atRest_or_issuing_or_waiting s.phase
    · exact ⟨s, step_atRest hp hrest, h⟩
    · rw [step_issuing hp hq]
      exact hostIssue_keeps_inv h hq
    · rw [step_waiting hp hq]
      exact hostCollect_keeps_inv h hp hq

/-! ### Runs -/

theorem stepMany_succ {s t : State} (h : step s = .next t) (n : Nat) : stepMany (n + 1) s = stepMany n t := by
  rw [stepMany, h]

/-- A run from a safe state reaches a safe state with the parameters of the start. -/
theorem stepMany_keeps_inv (n : Nat) {s : State} (h : s.Inv) :
    ∃ t, stepMany n s = some t ∧ t.Inv ∧ t.params = s.params := by
  induction n generalizing s with
  | zero => exact ⟨s, rfl, h, rfl⟩
  | succ n ih =>
    obtain ⟨s', hstep, hs'⟩ := everyStepKeepsSafety s h
    obtain ⟨t, hrun, ht, hparams⟩ := ih hs'
    exact ⟨t, (stepMany_succ hstep n).trans hrun, ht, hparams.trans (step_params hstep)⟩

/-- Settles O59, by induction on the length of the run. -/
theorem runsFromSafeStatesAreSafe : Obligations.RunsFromSafeStatesAreSafe := by
  intro n s h
  obtain ⟨t, hrun, ht⟩ := stepMany_keeps_inv n h
  refine ⟨Option.isSome_iff_exists.mpr ⟨t, hrun⟩, fun t' ht' => ?_⟩
  rw [hrun] at ht'
  cases ht'
  exact ht

end Sys2Proof.Machine
end

section
/-! PROOFS. The response to a command word (R48): one function of the word and the parameters, which every transaction
delivers; and the answers to all the commands that wait on a port, in order (R49). -/

namespace Sys2Proof.Machine

/-- The response to a command word: that of the operation it decodes to, or the error (R48, R77, R181). -/
def responseTo (prm : Params) (w : Command) : Response :=
  match decode w with
  | .ok i => responseOf prm i
  | .error e => errorResponse e

theorem responseTo_ok {w : Command} {i : Instr} (h : decode w = .ok i) (prm : Params) :
    responseTo prm w = responseOf prm i := by
  rw [responseTo, h]

theorem responseTo_error {w : Command} {e : ErrorKind} (h : decode w = .error e) (prm : Params) :
    responseTo prm w = errorResponse e := by
  rw [responseTo, h]

/-- A transaction delivers the response to its word, and nothing else changes. -/
theorem transaction_eq_deliver (w : Command) (s : State) :
    transaction w s = .next (s.deliver (responseTo s.params w)) := by
  cases h : decode w with
  | ok i => rw [transaction_ok h, exec_eq_deliver, responseTo_ok h]
  | error e => rw [transaction_error h, responseTo_error h]

/-- A step with a command pending delivers the response to the oldest, and nothing else changes. -/
theorem step_answers {s : State} {w : Command} {rest : List Command} (h : s.pending = w :: rest) :
    step s = .next { s with pending := rest, responses := s.responses ++ [responseTo s.params w] } := by
  rw [step_pending h, transaction_eq_deliver]
  rfl

theorem transact_eq_responseTo (prm : Params) (w : Command) : transact prm w = some (responseTo prm w) := by
  rw [transact, step_answers (State.placeCommand_pending (State.built prm) w)]
  rfl

/-- Settles O17: the response is `responseTo`. -/
theorem responseDependsOnCommandOnly : Obligations.ResponseDependsOnCommandOnly := by
  intro prm w
  refine ⟨responseTo prm w, transact_eq_responseTo prm w, fun s rest hprm hp => ?_⟩
  rw [← hprm]
  exact step_answers hp

/-- As many steps as commands wait on the port answer them all in their order (R49), and nothing else changes. -/
theorem stepMany_answers (s : State) :
    stepMany s.pending.length s =
      some { s with pending := [], responses := s.responses ++ s.pending.map (responseTo s.params) } := by
  cases s with
  | mk prm pending responses buffer phase freeCount =>
    induction pending generalizing responses with
    | nil => simp [stepMany]
    | cons w rest ih =>
      calc stepMany (rest.length + 1) ⟨prm, w :: rest, responses, buffer, phase, freeCount⟩
        _ = stepMany rest.length ⟨prm, rest, responses ++ [responseTo prm w], buffer, phase, freeCount⟩ :=
          stepMany_succ (step_answers rfl) rest.length
        _ = some ⟨prm, [], responses ++ [responseTo prm w] ++ rest.map (responseTo prm), buffer, phase, freeCount⟩ :=
          ih _
        _ = some ⟨prm, [], responses ++ (w :: rest).map (responseTo prm), buffer, phase, freeCount⟩ := by simp

/-- Settles O18: the responses are those of `responseTo`, one for each pending command. -/
theorem commandsAnsweredInOrder : Obligations.CommandsAnsweredInOrder := by
  intro s
  refine ⟨s.pending.map (responseTo s.params), List.length_map _, stepMany_answers s, fun i w hw => ?_⟩
  exact ⟨_, by rw [List.getElem?_map, hw]; rfl, transact_eq_responseTo s.params w⟩

end Sys2Proof.Machine
end

section
/-! PROOFS. QIMG over any order of pixels (R166, R167): what the command of a pixel makes of its element, and the one
property of a half-done buffer that every order of pixels keeps. -/

namespace Sys2Proof.Machine

/-! ### One pixel -/

/-- The response to the command of element i with colour c. -/
def pixelResponse (prm : Params) (p : DitherPolicy) (im : ImageMetadata) (i : Nat) (c : RgbColor) : Response :=
  responseTo prm (encode (pixelInstr p im i c))

/-- The colour the host writes back to element i (R166). -/
def pixelResult (prm : Params) (p : DitherPolicy) (im : ImageMetadata) (i : Nat) (c : RgbColor) : RgbColor :=
  colourOfData (Response.dataField (pixelResponse prm p im i c))

/-- The command of a pixel is answered with status OK (R164). -/
theorem statusField_pixelResponse (prm : Params) (p : DitherPolicy) (im : ImageMetadata) (i : Nat) (c : RgbColor) :
    Response.statusField (pixelResponse prm p im i c) = statusOk := by
  obtain ⟨c', hc'⟩ := quantPix_ok prm p im.variant (BitVec.ofNat 16 (i % im.width.toNat))
    (BitVec.ofNat 16 (i / im.width.toNat)) c
  rw [pixelResponse, pixelInstr, responseTo_ok (decode_encode_quantInstr ..), responseOf_quantInstr, hc']
  exact formR_statusField ..

theorem qimgPixel_eq_set {prm : Params} {p : DitherPolicy} {im : ImageMetadata} {buf : List RgbColor} {i : Nat}
    {c : RgbColor} (h : buf[i]? = some c) :
    qimgPixel prm p im buf i = .ok (buf.set i (pixelResult prm p im i c)) := by
  rw [qimgPixel, h]
  simp only [transact_eq_responseTo]
  exact if_pos (statusField_pixelResponse prm p im i c)

/-! ### A half-done buffer -/

/-- A buffer on its way from `old` to `f` of each element: the elements of `todo`, each once, are still as they were,
and the others are done. -/
structure HalfDone (f : Nat → RgbColor → RgbColor) (old : List RgbColor) (todo : List Nat) (buf : List RgbColor) :
    Prop where
  once : todo.Nodup
  inRange : ∀ i ∈ todo, i < old.length
  element : ∀ i : Nat, buf[i]? = if i ∈ todo then old[i]? else old[i]?.map (f i)

namespace HalfDone

variable {f : Nat → RgbColor → RgbColor} {old buf : List RgbColor} {todo rest : List Nat} {i : Nat}

/-- Before the first pixel: every element is to be done. -/
theorem start (h : todo.Perm (List.range old.length)) : HalfDone f old todo old where
  once := h.nodup_iff.mpr List.nodup_range
  inRange i hi := List.mem_range.mp (h.mem_iff.mp hi)
  element i := by
    by_cases hi : i ∈ todo
    · rw [if_pos hi]
    · have hout : old.length ≤ i := Nat.le_of_not_lt fun hlt => hi (h.mem_iff.mpr (List.mem_range.mpr hlt))
      rw [if_neg hi, List.getElem?_eq_none hout, Option.map_none]

/-- After the last pixel: every element is done. -/
theorem finish (h : HalfDone f old [] buf) : buf = old.mapIdx f := by
  refine List.ext_getElem? fun i => ?_
  rw [h.element i, List.getElem?_mapIdx, if_neg List.not_mem_nil]

theorem perm (h : HalfDone f old todo buf) (hp : todo.Perm rest) : HalfDone f old rest buf where
  once := hp.nodup_iff.mp h.once
  inRange i hi := h.inRange i (hp.mem_iff.mpr hi)
  element i := by simp only [h.element i, hp.mem_iff]

/-- An element that is to be done still holds its old colour. -/
theorem read (h : HalfDone f old todo buf) (hi : i ∈ todo) : ∃ c, buf[i]? = some c ∧ old[i]? = some c := by
  have hc : old[i]? = some (old[i]'(h.inRange i hi)) := List.getElem?_eq_getElem _
  exact ⟨_, by rw [h.element i, if_pos hi, hc], hc⟩

/-- Writing one element back leaves it done, and the others as they are: no other entry of `todo` names it. -/
theorem write {c : RgbColor} (h : HalfDone f old (i :: rest) buf) (hc : old[i]? = some c) :
    HalfDone f old rest (buf.set i (f i c)) where
  once := h.once.of_cons
  inRange j hj := h.inRange j (List.mem_cons_of_mem i hj)
  element j := by
    obtain ⟨c', hbuf, -⟩ := h.read List.mem_cons_self
    have hlt : i < buf.length := (List.getElem?_eq_some_iff.mp hbuf).1
    by_cases hj : j = i
    · subst hj
      rw [List.getElem?_set_self hlt, if_neg (List.nodup_cons.mp h.once).1, hc, Option.map_some]
    · rw [List.getElem?_set_ne (Ne.symm hj), h.element j]
      simp only [List.mem_cons, hj, false_or]

end HalfDone

/-! ### Any order of pixels -/

/-- The pixels left to do, taken in any order, finish the buffer. -/
theorem qimgInOrder_of_halfDone {prm : Params} {p : DitherPolicy} {im : ImageMetadata} {order : List Nat}
    {old buf : List RgbColor} (h : HalfDone (pixelResult prm p im) old order buf) :
    qimgInOrder prm p im order buf = .ok (old.mapIdx (pixelResult prm p im)) := by
  induction order generalizing buf with
  | nil => rw [qimgInOrder, h.finish]
  | cons i rest ih =>
    obtain ⟨c, hbuf, hold⟩ := h.read List.mem_cons_self
    rw [qimgInOrder, qimgPixel_eq_set hbuf]
    exact ih (h.write hold)

/-- QIMG makes of each element what its own command makes of it. -/
theorem qimg_eq_mapIdx {prm : Params} {p : DitherPolicy} {im : ImageMetadata} {buf : List RgbColor}
    (hlen : buf.length = im.width.toNat * im.height.toNat) :
    qimg prm p im buf = .ok (buf.mapIdx (pixelResult prm p im)) := by
  rw [qimg, ← hlen]
  exact qimgInOrder_of_halfDone (HalfDone.start (List.Perm.refl _))

end Sys2Proof.Machine
end

section
/-! PROOFS. An image shared out over several copies (R52, R167): whatever the interleaving, the responses that a port
still owes are the answers to the host's open commands in their order (R49, R215), and the buffer is half done. -/

namespace Sys2Proof.Machine

/-! ### One port -/

/-- The responses the host will take from a port: those delivered, then those to the commands that wait (R49). -/
def State.owed (s : State) : List Response := s.responses ++ s.pending.map (responseTo s.params)

theorem owed_issue (s : State) (w : Command) : (s.issue w).owed = s.owed ++ [responseTo s.params w] := by
  simp [State.owed]

theorem owed_of_responses {s : State} {rsp : Response} {rest : List Response} (h : s.responses = rsp :: rest) :
    s.owed = rsp :: { s with responses := rest }.owed := by
  simp [State.owed, h]

/-- A step of a copy that runs no sequence changes nothing of what it owes, and makes the oldest response ready. -/
theorem step_keeps_owed {s : State} (hrest : s.phase.atRest = true) :
    ∃ s', step s = .next s' ∧ s'.params = s.params ∧ s'.phase = s.phase ∧ s'.owed = s.owed ∧
      (s.owed ≠ [] → s'.responses ≠ []) := by
  cases hp : s.pending with
  | nil => exact ⟨s, step_atRest hp hrest, rfl, rfl, rfl, by simp [State.owed, hp]⟩
  | cons w rest => exact ⟨_, step_answers hp, rfl, rfl, by simp [State.owed, hp], by simp⟩

/-- A copy with these parameters, running no sequence, that owes a fitting response to each entry of its queue. -/
structure PortServes (prm : Params) (fits : Option Nat → Response → Prop) (queue : List (Option Nat)) (s : State) :
    Prop where
  params : s.params = prm
  atRest : s.phase.atRest = true
  owed : List.Forall₂ fits queue s.owed

section Port

variable {prm : Params} {fits : Option Nat → Response → Prop} {queue : List (Option Nat)} {s : State}

theorem PortServes.issue {e : Option Nat} {w : Command} (h : PortServes prm fits queue s)
    (hw : fits e (responseTo prm w)) : PortServes prm fits (queue ++ [e]) (s.issue w) where
  params := h.params
  atRest := h.atRest
  owed := by
    rw [owed_issue, h.params]
    exact List.rel_append h.owed (.cons hw .nil)

theorem PortServes.step (h : PortServes prm fits queue s) :
    ∃ s', Machine.step s = .next s' ∧ PortServes prm fits queue s' ∧ (queue ≠ [] → s'.responses ≠ []) := by
  obtain ⟨s', hstep, hparams, hphase, howed, hready⟩ := step_keeps_owed h.atRest
  refine ⟨s', hstep, ⟨hparams.trans h.params, hphase ▸ h.atRest, howed ▸ h.owed⟩, fun hq => hready fun hnone => hq ?_⟩
  exact List.forall₂_nil_right_iff.mp (hnone ▸ h.owed)

/-- The oldest response of copy k fits the oldest open command of that copy (R215). -/
theorem PortServes.oldest {given : List OpenCommand} {k : Nat} {rsp : Response} {rest : List Response}
    (h : PortServes prm fits (openAt given k) s) (hr : s.responses = rsp :: rest) :
    ∃ o, given.find? (fun o => o.copy == k) = some o ∧ fits o.element rsp ∧
      PortServes prm fits (openAt (given.eraseP (fun o => o.copy == k)) k) { s with responses := rest } := by
  have howed := h.owed
  rw [owed_of_responses hr] at howed
  cases ho : given.find? (fun o => o.copy == k) with
  | none =>
    rw [openAt_find_none ho] at howed
    cases howed
  | some o =>
    rw [openAt_find ho] at howed
    cases howed with
    | cons hfits hrest => exact ⟨o, rfl, hfits, h.params, h.atRest, hrest⟩

end Port

/-! ### All the ports -/

/-- Every copy serves its own part of the host's count of open commands. -/
def PortsServe (prm : Params) (fits : Option Nat → Response → Prop) (given : List OpenCommand) (copies : List State) :
    Prop :=
  ∀ k s, copies[k]? = some s → PortServes prm fits (openAt given k) s

/-- What happens at one port concerns no other (R194). -/
theorem PortsServe.set {prm : Params} {fits : Option Nat → Response → Prop} {given given' : List OpenCommand}
    {copies : List State} {k : Nat} {s' : State} (h : PortsServe prm fits given copies)
    (hother : ∀ j, j ≠ k → openAt given' j = openAt given j) (hk : PortServes prm fits (openAt given' k) s') :
    PortsServe prm fits given' (copies.set k s') := by
  intro j s hs
  by_cases hj : j = k
  · subst hj
    obtain ⟨hlt, hget⟩ := List.getElem?_eq_some_iff.mp hs
    rw [List.getElem_set_self] at hget
    exact hget ▸ hk
  · rw [List.getElem?_set_ne (Ne.symm hj)] at hs
    rw [hother j hj]
    exact h j s hs

/-! ### The host's count of open commands -/

/-- The elements whose commands are open. -/
def openElements (given : List OpenCommand) : List Nat := given.filterMap OpenCommand.element

/-- What `find?` finds is the one entry that `eraseP` drops. -/
theorem perm_cons_eraseP_of_find? {α : Type} {q : α → Bool} {l : List α} {a : α} (h : l.find? q = some a) :
    l.Perm (a :: l.eraseP q) := by
  obtain ⟨ha, before, after, rfl, hbefore⟩ := List.find?_eq_some_iff_append.mp h
  rw [List.eraseP_append_right _ (by simpa using hbefore), List.eraseP_cons_of_pos ha]
  exact List.perm_middle

/-- Taking a response closes the oldest open command of its copy, and no other. -/
theorem openElements_perm_of_find {given : List OpenCommand} {k : Nat} {o : OpenCommand}
    (h : given.find? (fun o => o.copy == k) = some o) :
    (openElements given).Perm (o.element.toList ++ openElements (given.eraseP (fun o => o.copy == k))) := by
  have hcons : ∀ rest, openElements (o :: rest) = o.element.toList ++ openElements rest := fun rest => by
    cases he : o.element with
    | none => exact List.filterMap_cons_none he
    | some i => exact List.filterMap_cons_some he
  rw [← hcons]
  exact (perm_cons_eraseP_of_find? h).filterMap _

/-- The commands of other work are no element's, and each was given to a copy that is there. -/
theorem mem_earlierCommands {copies : List State} {o : OpenCommand} (h : o ∈ earlierCommands copies) :
    o.element = none ∧ o.copy < copies.length := by
  obtain ⟨⟨s, k⟩, hmem, ho⟩ := List.mem_flatMap.mp h
  rw [List.eq_of_mem_replicate ho]
  exact ⟨rfl, (List.getElem?_eq_some_iff.mp (List.mem_zipIdx_iff_getElem?.mp hmem)).1⟩

theorem openElements_earlierCommands (copies : List State) : openElements (earlierCommands copies) = [] :=
  List.filterMap_eq_nil_iff.mpr fun _ ho => (mem_earlierCommands ho).1

/-! ### The invariant of a sharing -/

/-- A response fits an open command: where that is an element's, it is the answer to the element's colour in `old`. -/
def AnswersElement (prm : Params) (p : DitherPolicy) (im : ImageMetadata) (old : List RgbColor) (e : Option Nat)
    (r : Response) : Prop :=
  ∀ i, e = some i → ∃ c, old[i]? = some c ∧ r = pixelResponse prm p im i c

/-- An image being shared out over n copies, the elements of `todo` not yet given: every port serves the host's count,
and the buffer is half done, up to the elements given and not taken and those not given. -/
structure Sharing.OnTrack (prm : Params) (p : DitherPolicy) (im : ImageMetadata) (old : List RgbColor) (n : Nat)
    (todo : List Nat) (h : Sharing) : Prop where
  size : h.system.copies.length = n
  ports : PortsServe prm (AnswersElement prm p im old) h.given h.system.copies
  copies : ∀ o ∈ h.given, o.copy < n
  buffer : HalfDone (pixelResult prm p im) old (openElements h.given ++ todo) h.buffer

namespace Sharing.OnTrack

variable {prm : Params} {p : DitherPolicy} {im : ImageMetadata} {old : List RgbColor} {n k : Nat} {todo : List Nat}
  {h : Sharing}

theorem start {r : Replicas} (hr : r.sharing prm) (hrest : ∀ s ∈ r.copies, s.phase.atRest = true)
    (htodo : todo.Perm (List.range old.length)) :
    OnTrack prm p im old r.copies.length todo (Sharing.start r old) where
  size := rfl
  ports k s hs := by
    have hmem : s ∈ r.copies := List.mem_of_getElem? hs
    have hqueue : openAt (Sharing.start r old).given k = _ := openAt_earlierCommands hs
    refine ⟨hr.2 s hmem, hrest s hmem, ?_⟩
    rw [hqueue]
    refine List.forall₂_iff_zip.mpr ⟨by simp [State.owed], fun {e rsp} hzip i he => ?_⟩
    rw [List.eq_of_mem_replicate (List.of_mem_zip hzip).1] at he
    cases he
  copies _ ho := (mem_earlierCommands ho).2
  buffer := by
    rw [Sharing.start, openElements_earlierCommands, List.nil_append]
    exact HalfDone.start htodo

theorem copy (ht : OnTrack prm p im old n todo h) (hk : k < n) :
    ∃ s, h.system.copies[k]? = some s ∧ PortServes prm (AnswersElement prm p im old) (openAt h.given k) s := by
  have hs : h.system.copies[k]? = some (h.system.copies[k]'(ht.size ▸ hk)) := List.getElem?_eq_getElem _
  exact ⟨_, hs, ht.ports k _ hs⟩

/-- Giving the command of an element that is to be done. -/
theorem give {i : Nat} (ht : OnTrack prm p im old n (i :: todo) h) (hk : k < n) :
    ∃ h', h.give p im i k = .ok h' ∧ OnTrack prm p im old n todo h' := by
  obtain ⟨s, hs, hport⟩ := ht.copy hk
  obtain ⟨c, hbuf, hold⟩ := ht.buffer.read (List.mem_append_right _ List.mem_cons_self)
  have hfits : AnswersElement prm p im old (some i) (pixelResponse prm p im i c) := by
    rintro _ ⟨⟩
    exact ⟨c, hold, rfl⟩
  refine ⟨_, Sharing.give_eq hs hbuf, ?_, ?_, ?_, ?_⟩
  · rw [List.length_set, ht.size]
  · refine ht.ports.set (fun j hj => openAt_snoc_other _ _ hj) ?_
    rw [openAt_snoc_same]
    exact hport.issue hfits
  · intro o ho
    obtain hin | hnew := List.mem_append.mp ho
    · exact ht.copies o hin
    · rw [List.mem_singleton.mp hnew]
      exact hk
  · have hopen : openElements (h.given ++ [{ element := some i, copy := k }]) ++ todo =
        openElements h.given ++ i :: todo := by simp [openElements]
    rw [hopen]
    exact ht.buffer

/-- A step of a copy; if that copy has an open command, a response is ready there after it. -/
theorem run (ht : OnTrack prm p im old n todo h) (hk : k < n) :
    ∃ h', h.run k = .ok h' ∧ OnTrack prm p im old n todo h' ∧ h'.given = h.given ∧
      (openAt h.given k ≠ [] → ∃ s, h'.system.copies[k]? = some s ∧ s.responses ≠ []) := by
  obtain ⟨s, hs, hport⟩ := ht.copy hk
  obtain ⟨s', hstep, hport', hready⟩ := hport.step
  refine ⟨_, Sharing.run_eq hs hstep, ⟨?_, ?_, ht.copies, ht.buffer⟩, rfl, fun hopen => ⟨s', ?_, hready hopen⟩⟩
  · rw [List.length_set, ht.size]
  · exact ht.ports.set (fun _ _ => rfl) hport'
  · exact List.getElem?_set_self (ht.size ▸ hk)

/-- Taking a response that is there closes the oldest open command of its copy. -/
theorem take_response {s : State} (ht : OnTrack prm p im old n todo h) (hs : h.system.copies[k]? = some s)
    (hready : s.responses ≠ []) :
    ∃ h', h.take k = .ok h' ∧ OnTrack prm p im old n todo h' ∧
      h'.given = h.given.eraseP (fun o => o.copy == k) := by
  obtain ⟨rsp, rest, hr⟩ := List.exists_cons_of_ne_nil hready
  obtain ⟨o, ho, hfits, hport⟩ := (ht.ports k s hs).oldest hr
  have hsize : (h.system.copies.set k { s with responses := rest }).length = n := by rw [List.length_set, ht.size]
  have hports := ht.ports.set (fun j hj => openAt_erase_other h.given hj) hport
  have hcopies : ∀ o' ∈ h.given.eraseP (fun o => o.copy == k), o'.copy < n :=
    fun o' ho' => ht.copies o' (List.mem_of_mem_eraseP ho')
  have hbuffer := ht.buffer.perm ((openElements_perm_of_find ho).append_right todo)
  cases he : o.element with
  | none =>
    rw [he] at hbuffer
    exact ⟨_, Sharing.take_other hs hr ho he, ⟨hsize, hports, hcopies, hbuffer⟩, rfl⟩
  | some i =>
    obtain ⟨c, hold, rfl⟩ := hfits i he
    rw [he] at hbuffer
    exact ⟨_, Sharing.take_colour hs hr ho he (statusField_pixelResponse prm p im i c),
      ⟨hsize, hports, hcopies, hbuffer.write hold⟩, rfl⟩

theorem take (ht : OnTrack prm p im old n todo h) (hk : k < n) :
    ∃ h', h.take k = .ok h' ∧ OnTrack prm p im old n todo h' := by
  obtain ⟨s, hs, -⟩ := ht.copy hk
  by_cases hr : s.responses = []
  · exact ⟨h, Sharing.take_nothing hs hr, ht⟩
  · obtain ⟨h', htake, ht', -⟩ := ht.take_response hs hr
    exact ⟨h', htake, ht'⟩

/-! ### Several moves -/

theorem move {m : ShareMove} (ht : OnTrack prm p im old n (m.element.toList ++ todo) h) (hm : m.copy < n) :
    ∃ h', h.move p im m = .ok h' ∧ OnTrack prm p im old n todo h' := by
  cases m with
  | give i k => exact ht.give hm
  | run k =>
    obtain ⟨h', hrun, ht', -⟩ := ht.run hm
    exact ⟨h', hrun, ht'⟩
  | take k => exact ht.take hm

/-- Any interleaving that gives each element of `todo` once leaves none to be given. -/
theorem moves {ms : List ShareMove} (ht : OnTrack prm p im old n (ms.filterMap ShareMove.element) h)
    (hms : ∀ m ∈ ms, m.copy < n) :
    ∃ h', Sharing.moves p im ms h = .ok h' ∧ OnTrack prm p im old n [] h' := by
  induction ms generalizing h with
  | nil => exact ⟨h, rfl, ht⟩
  | cons m rest ih =>
    have htodo : (m :: rest).filterMap ShareMove.element = m.element.toList ++ rest.filterMap ShareMove.element := by
      cases m <;> rfl
    rw [htodo] at ht
    obtain ⟨h₁, hmove, ht₁⟩ := ht.move (hms m List.mem_cons_self)
    rw [Sharing.moves_cons hmove]
    exact ih ht₁ fun m' hm' => hms m' (List.mem_cons_of_mem m hm')

/-- A step of its copy and a response taken there close the oldest open command. -/
theorem settle_oldest {o : OpenCommand} {given : List OpenCommand} (ht : OnTrack prm p im old n todo h)
    (hgiven : h.given = o :: given) :
    ∃ h', (∀ ms, Sharing.moves p im (.run o.copy :: .take o.copy :: ms) h = Sharing.moves p im ms h') ∧
      OnTrack prm p im old n todo h' ∧ h'.given = given := by
  obtain ⟨h₁, hrun, ht₁, hgiven₁, hready⟩ := ht.run (ht.copies o (hgiven ▸ List.mem_cons_self))
  obtain ⟨s, hs, hr⟩ := hready (by simp [hgiven, openAt])
  obtain ⟨h₂, htake, ht₂, hgiven₂⟩ := ht₁.take_response hs hr
  refine ⟨h₂, fun ms => ?_, ht₂, ?_⟩
  · rw [Sharing.moves_cons (m := .run o.copy) hrun, Sharing.moves_cons (m := .take o.copy) htake]
  · rw [hgiven₂, hgiven₁, hgiven, List.eraseP_cons_of_pos (by simp)]

/-- Settling closes every open command. -/
theorem settle (ht : OnTrack prm p im old n todo h) :
    ∃ h', Sharing.moves p im h.settling h = .ok h' ∧ OnTrack prm p im old n todo h' ∧ h'.given = [] := by
  rw [Sharing.settling]
  induction hgiven : h.given generalizing h with
  | nil => exact ⟨h, rfl, ht, hgiven⟩
  | cons o given ih =>
    obtain ⟨h₁, hfirst, ht₁, hgiven₁⟩ := ht.settle_oldest hgiven
    obtain ⟨h', hmoves, ht', hnone⟩ := ih ht₁ hgiven₁
    exact ⟨h', (hfirst _).trans hmoves, ht', hnone⟩

/-- With nothing to give and nothing open the buffer is the one QIMG computes. -/
theorem qimg_eq (ht : OnTrack prm p im old n [] h) (hlen : old.length = im.width.toNat * im.height.toNat)
    (hnone : h.given = []) : qimg prm p im old = .ok h.buffer := by
  have hdone := ht.buffer
  rw [hnone] at hdone
  rw [qimg_eq_mapIdx hlen, hdone.finish]

end Sharing.OnTrack

/-! ### The result of a sharing -/

/-- Whatever the interleaving, nothing fails, the open commands can be settled, and once none is open the buffer is the
one QIMG computes. -/
theorem moves_compute_qimg {r : Replicas} {prm : Params} {p : DitherPolicy} {im : ImageMetadata} {buf : List RgbColor}
    {ms : List ShareMove} (hr : r.sharing prm) (hrest : ∀ s ∈ r.copies, s.phase.atRest = true)
    (hlen : buf.length = im.width.toNat * im.height.toNat)
    (hperm : (ms.filterMap ShareMove.element).Perm (List.range (im.width.toNat * im.height.toNat)))
    (hms : ∀ m ∈ ms, m.copy < r.copies.length) :
    ∃ final settled : Sharing, Sharing.moves p im ms (Sharing.start r buf) = .ok final ∧
      (final.given = [] → qimg prm p im buf = .ok final.buffer) ∧
      Sharing.moves p im final.settling final = .ok settled ∧ settled.given = [] ∧
      qimg prm p im buf = .ok settled.buffer := by
  obtain ⟨final, hfinal, htrack⟩ := (Sharing.OnTrack.start (p := p) (im := im) hr hrest (hlen ▸ hperm)).moves hms
  obtain ⟨settled, hsettled, htrack', hnone⟩ := htrack.settle
  exact ⟨final, settled, hfinal, htrack.qimg_eq hlen, hsettled, hnone, htrack'.qimg_eq hlen hnone⟩

/-- Settles O54: the interleavings by `moves_compute_qimg`, the jobs as the interleaving that gives them all first. -/
theorem copiesDoNotMatter : Obligations.CopiesDoNotMatter := by
  intro r prm p im buf hr hrest hlen
  refine ⟨fun ms hperm hms => moves_compute_qimg hr hrest hlen hperm hms, fun jobs hperm hjobs => ?_⟩
  have helements : (jobs.map fun j => ShareMove.give j.1 j.2).filterMap ShareMove.element = jobs.map Prod.fst := by
    rw [List.filterMap_map]
    exact congrFun List.filterMap_eq_map jobs
  have hcopies : ∀ m ∈ jobs.map fun j => ShareMove.give j.1 j.2, m.copy < r.copies.length :=
    List.forall_mem_map.mpr hjobs
  obtain ⟨final, settled, hfinal, -, hsettled, -, hqimg⟩ :=
    moves_compute_qimg hr hrest hlen (helements ▸ hperm) hcopies
  rw [qimgOnCopies, hfinal]
  simp only [hsettled, hqimg]

end Sys2Proof.Machine
end

section
/-! PROOFS. The round trip between operations and command words (R61 to R69, R77): what each row of R69 demands of the
fields of a word, what is read back from the encoder's word, and what the encoder makes of a word that was read. -/

namespace Sys2Proof

/-! ### DATA read and written again -/

@[simp] theorem extractLsb'_dataOfIndex {n : Nat} (h : n ≤ 24) (i : BitVec n) :
    (dataOfIndex i).extractLsb' 0 n = i := by
  apply BitVec.eq_of_toNat_eq
  rw [BitVec.extractLsb'_toNat, toNat_dataOfIndex h, Nat.shiftRight_zero, Nat.mod_eq_of_lt i.isLt]

/-- A DATA field below `2^n` is that of the index in its low n bits (R66). -/
theorem dataOfIndex_extractLsb' {n : Nat} (h : n ≤ 24) {d : Data} (hd : d.toNat < 2 ^ n) :
    dataOfIndex (d.extractLsb' 0 n) = d := by
  apply BitVec.eq_of_toNat_eq
  rw [toNat_dataOfIndex h, BitVec.extractLsb'_toNat, Nat.shiftRight_zero, Nat.mod_eq_of_lt hd]

/-- A DATA field with bits 23:16 zero is that of the packed value in its low half (R66). -/
theorem dataOfPacked_packedOfData {d : Data} (hd : d.toNat < 65536) : dataOfPacked (packedOfData d) = d := by
  apply BitVec.eq_of_toNat_eq
  rw [toNat_dataOfPacked, packedOfData, BitVec.extractLsb'_toNat, Nat.shiftRight_zero, Nat.mod_eq_of_lt hd]

/-! ### What a row demands of the fields -/

/-- What the row of a mnemonic demands of the fields of a word (R61 to R66, R69): its OP and POL codes, Z zero, and
zero in what its sub-form does not use. -/
def Mnemonic.fieldsFit (op : BitVec 4) (pol : BitVec 2) (v z : BitVec 1) (y x : Coord) (d : Data) : Mnemonic → Prop
  | .pack => op = 1 ∧ pol = 0 ∧ z = 0 ∧ y = 0 ∧ x = 0
  | .unpack => op = 2 ∧ pol = 0 ∧ z = 0 ∧ y = 0 ∧ x = 0 ∧ d.toNat < 65536
  | .dithN => op = 3 ∧ pol = 0 ∧ z = 0
  | .dithO => op = 3 ∧ pol = 1 ∧ z = 0
  | .dithS => op = 3 ∧ pol = 2 ∧ z = 0
  | .quantN => op = 4 ∧ pol = 0 ∧ z = 0
  | .quantO => op = 4 ∧ pol = 1 ∧ z = 0
  | .quantS => op = 4 ∧ pol = 2 ∧ z = 0
  | .scd5 => op = 8 ∧ pol = 0 ∧ v = 0 ∧ z = 0 ∧ y = 0 ∧ x = 0 ∧ d.toNat < 256
  | .scd6 => op = 9 ∧ pol = 0 ∧ v = 0 ∧ z = 0 ∧ y = 0 ∧ x = 0 ∧ d.toNat < 256
  | .scu5 => op = 10 ∧ pol = 0 ∧ v = 0 ∧ z = 0 ∧ y = 0 ∧ x = 0 ∧ d.toNat < 32
  | .scu6 => op = 11 ∧ pol = 0 ∧ v = 0 ∧ z = 0 ∧ y = 0 ∧ x = 0 ∧ d.toNat < 64

section Fields
variable {op : BitVec 4} {pol : BitVec 2} {v z : BitVec 1} {y x : Coord} {d : Data}

/-- A row of R69 selects exactly the words whose fields fit its mnemonic. -/
theorem selects_iff_fieldsFit : ∀ r ∈ opTable,
    (r.selects (formC op pol v z y x d) = true ↔ r.mnemonic.fieldsFit op pol v z y x d) := by
  simp only [opTable, List.cons_append, List.nil_append, List.forall_mem_cons]
  exact ⟨selects_pack, selects_unpack, selects_pix (by decide), selects_pix (by decide), selects_pix (by decide),
    selects_pix (by decide), selects_pix (by decide), selects_pix (by decide), selects_scd (by decide),
    selects_scd (by decide), selects_scu5, selects_scu6, nofun⟩

/-- The encoder gives back every word from which operands were read by a row that it fits: the fields that were not
read hold the row's own codes or zero. -/
theorem encode_readOperands_of_fieldsFit {m : Mnemonic} (h : m.fieldsFit op pol v z y x d) :
    encode (readOperands m (formC op pol v z y x d)) = formC op pol v z y x d := by
  cases m with
  | pack =>
    obtain ⟨rfl, rfl, rfl, rfl, rfl⟩ := h
    simp [readOperands, encode]
  | unpack =>
    obtain ⟨rfl, rfl, rfl, rfl, rfl, hd⟩ := h
    simp [readOperands, encode, dataOfPacked_packedOfData hd]
  | dithN | dithO | dithS | quantN | quantO | quantS =>
    obtain ⟨rfl, rfl, rfl⟩ := h
    simp [readOperands, encode, DitherPolicy.code]
  | scd5 | scd6 =>
    obtain ⟨rfl, rfl, rfl, rfl, rfl, rfl, hd⟩ := h
    simp [readOperands, encode, dataOfIndex_extractLsb' (n := 8) (by decide) hd]
  | scu5 =>
    obtain ⟨rfl, rfl, rfl, rfl, rfl, rfl, hd⟩ := h
    simp [readOperands, encode, dataOfIndex_extractLsb' (n := 5) (by decide) hd]
  | scu6 =>
    obtain ⟨rfl, rfl, rfl, rfl, rfl, rfl, hd⟩ := h
    simp [readOperands, encode, dataOfIndex_extractLsb' (n := 6) (by decide) hd]

end Fields

theorem exists_row (m : Mnemonic) : ∃ r ∈ opTable, r.mnemonic = m := by
  cases m <;> decide

/-! ### Operands written and read -/

@[simp] theorem mnemonic_readOperands (m : Mnemonic) (w : Command) : (readOperands m w).mnemonic = m := by
  cases m <;> rfl

/-- The operands read from the encoder's word by the operation's own row are the operation's (R64 to R66). -/
theorem readOperands_encode (i : Instr) : readOperands i.mnemonic (encode i) = i := by
  cases i <;> simp [Instr.mnemonic, readOperands, encode]

/-- The encoder's word matches the operation's own row (R69). -/
theorem encode_selects (i : Instr) : Laws.EncodeSelectsRow.Statement i := by
  cases i with
  | pack v c => exact Laws.EncodeSelectsRow.pack v c
  | unpack v p => exact Laws.EncodeSelectsRow.unpack v p
  | dithN v x y c => exact Laws.EncodeSelectsRow.dithN v x y c
  | dithO v x y c => exact Laws.EncodeSelectsRow.dithO v x y c
  | dithS v x y c => exact Laws.EncodeSelectsRow.dithS v x y c
  | quantN v x y c => exact Laws.EncodeSelectsRow.quantN v x y c
  | quantO v x y c => exact Laws.EncodeSelectsRow.quantO v x y c
  | quantS v x y c => exact Laws.EncodeSelectsRow.quantS v x y c
  | scd5 k => exact Laws.EncodeSelectsRow.scd5 k
  | scd6 k => exact Laws.EncodeSelectsRow.scd6 k
  | scu5 b => exact Laws.EncodeSelectsRow.scu5 b
  | scu6 b => exact Laws.EncodeSelectsRow.scu6 b

theorem decode_encode (i : Instr) : decode (encode i) = .ok i := by
  obtain ⟨r, hr, hm, hsel⟩ := encode_selects i
  rw [decode_of_selects hr hsel, hm, readOperands_encode]

/-- A word that a row selects is the word of the operation read from it. -/
theorem encode_readOperands_of_selects {w : Command} {r : OpRow} (hr : r ∈ opTable) (h : r.selects w = true) :
    encode (readOperands r.mnemonic w) = w := by
  obtain ⟨op, pol, v, z, y, x, d, rfl⟩ := exists_formC w
  exact encode_readOperands_of_fieldsFit ((selects_iff_fieldsFit r hr).mp h)

/-- Settles O5: the operation's own row selects its word, and reads its operands back. -/
theorem decodeEncode : Obligations.DecodeEncode := decode_encode

/-- Settles O6: a word that decodes is selected by a row, which leaves no bit free beside the operands. -/
theorem encodeDecode : Obligations.EncodeDecode := by
  intro w i h
  obtain ⟨r, hrow, rfl⟩ := (decode_ok_iff w i).mp h
  exact encode_readOperands_of_selects (List.mem_of_find?_eq_some hrow)
    (List.find?_some (p := (OpRow.selects · w)) hrow)

/-- Settles O8. -/
theorem rowsDoNotOverlap : Obligations.RowsDoNotOverlap :=
  fun _ _ hr _ hr' h h' => eq_of_selects hr hr' h h'

/-- Settles O10: a matched row reads the operation, which has that word; with no match the answer is the error. -/
theorem decodingIsTotal : Obligations.DecodingIsTotal := by
  intro w
  refine ⟨?_, fun r hr hmatch => ?_, fun hnone => ?_⟩
  · cases h : decode w with
    | ok i => exact .inl ⟨i, rfl⟩
    | error e => exact .inr (by rw [((decode_error_iff w e).mp h).1])
  · have hsel : r.selects w = true := beq_iff_eq.mpr hmatch
    exact ⟨_, decode_of_selects hr hsel, mnemonic_readOperands .., encode_readOperands_of_selects hr hsel⟩
  · exact (decode_error_iff w _).mpr ⟨rfl, fun r hr => beq_eq_false_iff_ne.mpr (hnone r hr)⟩

theorem decode_of_encode_eq {w : Command} {i : Instr} (h : encode i = w) : decode w = .ok i :=
  h ▸ decode_encode i

/-- Settles O11: each word is the one the encoder writes. -/
theorem sampleWordsDecode : Obligations.SampleWordsDecode :=
  ⟨decode_of_encode_eq (by decide), decode_of_encode_eq (by decide), decode_of_encode_eq (by decide),
    decode_of_encode_eq (by decide), decode_of_encode_eq (by decide), decode_of_encode_eq (by decide),
    decode_of_encode_eq (by decide), decode_of_encode_eq (by decide)⟩

/-! ### The word as a sum of fields -/

theorem toNat_bit (v : Variant) : v.bit.toNat = v.num := by
  cases v <;> rfl

/-- A word with Z zero is the sum of its fields at their places (R61). -/
theorem toNat_formC_eq_commandNum (op : BitVec 4) (pol : BitVec 2) (v : BitVec 1) (y x : Coord) (d : Data) :
    (formC op pol v 0#1 y x d).toNat = commandNum op.toNat pol.toNat v.toNat y.toNat x.toNat d.toNat := by
  rw [toNat_formC, commandNum, BitVec.toNat_ofNat]
  omega

theorem toNat_formC_dataOfColour (op : BitVec 4) (pol : BitVec 2) (v : Variant) (y x : Coord) (c : RgbColor) :
    (formC op pol v.bit 0#1 y x (dataOfColour c)).toNat =
      commandNum op.toNat pol.toNat v.num y.toNat x.toNat (colourNum c) := by
  rw [toNat_formC_eq_commandNum, toNat_bit, toNat_dataOfColour, colourNum]

theorem toNat_formC_dataOfPacked (op : BitVec 4) (v : Variant) (p : PackedValue) :
    (formC op 0#2 v.bit 0#1 0#16 0#16 (dataOfPacked p)).toNat = commandNum op.toNat 0 v.num 0 0 p.toNat := by
  rw [toNat_formC_eq_commandNum, toNat_bit, toNat_dataOfPacked]
  rfl

theorem toNat_formC_dataOfIndex (op : BitVec 4) {n : Nat} (h : n ≤ 24) (i : BitVec n) :
    (formC op 0#2 0#1 0#1 0#16 0#16 (dataOfIndex i)).toNat = commandNum op.toNat 0 0 0 0 i.toNat := by
  rw [toNat_formC_eq_commandNum, toNat_dataOfIndex h]
  rfl

/-- Settles O7: the three layouts of DATA, in the words of the twelve operations. -/
theorem encodedWordIsFieldSum : Obligations.EncodedWordIsFieldSum :=
  ⟨fun _ _ => toNat_formC_dataOfColour .., fun _ _ => toNat_formC_dataOfPacked ..,
    fun _ _ _ _ => toNat_formC_dataOfColour .., fun _ _ _ _ => toNat_formC_dataOfColour ..,
    fun _ _ _ _ => toNat_formC_dataOfColour .., fun _ _ _ _ => toNat_formC_dataOfColour ..,
    fun _ _ _ _ => toNat_formC_dataOfColour .., fun _ _ _ _ => toNat_formC_dataOfColour ..,
    toNat_formC_dataOfIndex _ (by decide), toNat_formC_dataOfIndex _ (by decide),
    toNat_formC_dataOfIndex _ (by decide), toNat_formC_dataOfIndex _ (by decide)⟩

end Sys2Proof
end

section
/-! PROOFS. The illegal words (R71): the cases the rule lists are those in which the fields of a word fit no row. -/

namespace Sys2Proof.Machine

/-- The cases of R71, on the fields of a word as numbers; `yx` is Y and X together. -/
def IllegalFields (op pol v z yx data : Nat) : Prop :=
  (op = 0 ∨ op = 5 ∨ op = 6 ∨ op = 7 ∨ 12 ≤ op) ∨ ((op = 3 ∨ op = 4) ∧ pol = 3) ∨ z = 1 ∨
    ((op = 1 ∨ op = 2) ∧ (pol ≠ 0 ∨ yx ≠ 0)) ∨ ((op = 8 ∨ op = 9 ∨ op = 10 ∨ op = 11) ∧ (pol ≠ 0 ∨ v ≠ 0 ∨ yx ≠ 0)) ∨
    (op = 2 ∧ 2 ^ 16 ≤ data) ∨ ((op = 8 ∨ op = 9) ∧ 2 ^ 8 ≤ data) ∨ (op = 10 ∧ 2 ^ 5 ≤ data) ∨ (op = 11 ∧ 2 ^ 6 ≤ data)

section Fields
variable {op : BitVec 4} {pol : BitVec 2} {v z : BitVec 1} {y x : Coord} {d : Data}

theorem decode_formC_illegal_iff :
    decode (formC op pol v z y x d) = .error .illegalCommand ↔ ¬ ∃ m : Mnemonic, m.fieldsFit op pol v z y x d := by
  rw [decode_error_iff, not_exists]
  constructor
  · rintro ⟨-, hnone⟩ m hfit
    obtain ⟨r, hr, rfl⟩ := exists_row m
    exact Bool.eq_false_iff.mp (hnone r hr) ((selects_iff_fieldsFit r hr).mpr hfit)
  · exact fun hnone => ⟨rfl, fun r hr => Bool.eq_false_iff.mpr (mt (selects_iff_fieldsFit r hr).mp (hnone _))⟩

/-- The OP and POL codes that R71 leaves: OP names the group of a row, and POL the policy within it (R62, R63). -/
theorem op_pol_cases : ∀ (op : BitVec 4) (pol : BitVec 2),
    ¬ (op.toNat = 0 ∨ op.toNat = 5 ∨ op.toNat = 6 ∨ op.toNat = 7 ∨ 12 ≤ op.toNat) →
    ¬ ((op.toNat = 3 ∨ op.toNat = 4) ∧ pol.toNat = 3) →
    op = 1 ∨ op = 2 ∨ (op = 3 ∧ pol = 0) ∨ (op = 3 ∧ pol = 1) ∨ (op = 3 ∧ pol = 2) ∨ (op = 4 ∧ pol = 0) ∨
      (op = 4 ∧ pol = 1) ∨ (op = 4 ∧ pol = 2) ∨ op = 8 ∨ op = 9 ∨ op = 10 ∨ op = 11 := by
  decide

/-- Fields fit some row exactly in none of the cases of R71. -/
theorem exists_fieldsFit_iff : (∃ m : Mnemonic, m.fieldsFit op pol v z y x d) ↔
    ¬ IllegalFields op.toNat pol.toNat v.toNat z.toNat (y.toNat * 2 ^ 16 + x.toNat) d.toNat := by
  simp only [IllegalFields]
  constructor
  · rintro ⟨m, hm⟩
    cases m <;> simp only [Mnemonic.fieldsFit, ← BitVec.toNat_inj, BitVec.ofNat_eq_ofNat, BitVec.toNat_ofNat] at hm <;>
      omega
  · intro h
    obtain ⟨hop, h⟩ := not_or.mp h
    obtain ⟨hpol, h⟩ := not_or.mp h
    obtain ⟨hz, h⟩ := not_or.mp h
    have hz : z = 0 := (by decide : ∀ z : BitVec 1, z.toNat ≠ 1 → z = 0) z hz
    rcases op_pol_cases op pol hop hpol with rfl | rfl | ⟨rfl, rfl⟩ | ⟨rfl, rfl⟩ | ⟨rfl, rfl⟩ | ⟨rfl, rfl⟩ |
        ⟨rfl, rfl⟩ | ⟨rfl, rfl⟩ | rfl | rfl | rfl | rfl
    · exact ⟨.pack, by simpa [Mnemonic.fieldsFit, hz, ← BitVec.toNat_inj] using h⟩
    · exact ⟨.unpack, by simpa [Mnemonic.fieldsFit, hz, ← BitVec.toNat_inj, and_assoc] using h⟩
    · exact ⟨.dithN, rfl, rfl, hz⟩
    · exact ⟨.dithO, rfl, rfl, hz⟩
    · exact ⟨.dithS, rfl, rfl, hz⟩
    · exact ⟨.quantN, rfl, rfl, hz⟩
    · exact ⟨.quantO, rfl, rfl, hz⟩
    · exact ⟨.quantS, rfl, rfl, hz⟩
    · exact ⟨.scd5, by simpa [Mnemonic.fieldsFit, hz, ← BitVec.toNat_inj, and_assoc] using h⟩
    · exact ⟨.scd6, by simpa [Mnemonic.fieldsFit, hz, ← BitVec.toNat_inj, and_assoc] using h⟩
    · exact ⟨.scu5, by simpa [Mnemonic.fieldsFit, hz, ← BitVec.toNat_inj, and_assoc] using h⟩
    · exact ⟨.scu6, by simpa [Mnemonic.fieldsFit, hz, ← BitVec.toNat_inj, and_assoc] using h⟩

end Fields

/-- An illegal word is answered with the response 0x20000000, and nothing else is done (R71, R181). -/
theorem step_illegal {s : State} {w : Command} {rest : List Command} (hp : s.pending = w :: rest)
    (h : decode w = .error .illegalCommand) : step s = .next ({ s with pending := rest }.answered 0x20000000) := by
  rw [step_pending hp, transaction_error h, errorResponse_eq_ofNat]
  rfl

/-- Settles O9: the fields of the word, as numbers, are those of the format-C word it is. -/
theorem illegalWordsAreExactlyTheListed : Obligations.IllegalWordsAreExactlyTheListed := by
  intro w
  refine ⟨?_, fun s rest => step_illegal⟩
  obtain ⟨op, pol, v, z, y, x, d, rfl⟩ := exists_formC w
  have hop : (formC op pol v z y x d).toNat / 2 ^ 60 = op.toNat := by rw [toNat_formC]; omega
  have hpol : (formC op pol v z y x d).toNat / 2 ^ 58 % 4 = pol.toNat := by rw [toNat_formC]; omega
  have hv : (formC op pol v z y x d).toNat / 2 ^ 57 % 2 = v.toNat := by rw [toNat_formC]; omega
  have hz : (formC op pol v z y x d).toNat / 2 ^ 56 % 2 = z.toNat := by rw [toNat_formC]; omega
  have hyx : (formC op pol v z y x d).toNat / 2 ^ 24 % 2 ^ 32 = y.toNat * 2 ^ 16 + x.toNat := by
    rw [toNat_formC]; omega
  have hdata : (formC op pol v z y x d).toNat % 2 ^ 24 = d.toNat := by rw [toNat_formC]; omega
  rw [hop, hpol, hv, hz, hyx, hdata, decode_formC_illegal_iff, exists_fieldsFit_iff, not_not]
  rfl

end Sys2Proof.Machine
end

section
/-! PROOFS. What a transaction answers and runs (R46, R67, R77), and the expansion of QIMG (R75). -/

namespace Sys2Proof.Machine

/-- Settles O16: a transaction delivers one legal response, and this is the state it ends in. -/
theorem everyResponseIsLegal : Obligations.EveryResponseIsLegal := by
  intro w s t h
  obtain ⟨r, hlegal, hr⟩ := transaction_delivers_legal w s
  rw [hr] at h
  cases h
  exact ⟨r, State.deliver_responses s r, hlegal⟩

/-- A word placed in front of the port is the word of the next transaction. -/
theorem step_placeCommand (s : State) (w : Command) : step (s.placeCommand w) = transaction w s := by
  rw [step, takeCommand_placeCommand]

/-- Settles O12. -/
theorem stepRunsDecodedCommand : Obligations.StepRunsDecodedCommand :=
  ⟨fun _ _ _ _ hp hi => (step_pending hp).trans (transaction_ok hi _), fun s _ _ => step_placeCommand s _⟩

/-! ### The expansion of QIMG -/

/-- Reading a list at each of its indices in turn maps over the list with its indices. -/
theorem filterMap_range_getElem? {α β : Type} (f : Nat → α → β) (l : List α) :
    (List.range l.length).filterMap (fun i => l[i]?.map (f i)) = l.mapIdx f := by
  induction l using List.reverseRecOn with
  | nil => rfl
  | append_singleton l a ih =>
    have hinit : ∀ i ∈ List.range l.length, (l ++ [a])[i]?.map (f i) = l[i]?.map (f i) := fun i hi => by
      rw [List.getElem?_append_left (List.mem_range.mp hi)]
    rw [List.length_append, List.length_singleton, List.range_succ, List.filterMap_append,
      List.filterMap_congr hinit, ih, List.mapIdx_concat]
    simp

/-- The expansion has one operation for each element of the buffer, that of its pixel (R41, R75). -/
theorem expandQimg_eq_mapIdx {im : ImageMetadata} {buf : List RgbColor} (p : DitherPolicy)
    (hlen : buf.length = im.width.toNat * im.height.toNat) : expandQimg p im buf = buf.mapIdx (pixelInstr p im) := by
  rw [expandQimg, ← hlen]
  exact filterMap_range_getElem? (pixelInstr p im) buf

/-- The operation of an element in row y and column x has the coordinates x and y. -/
theorem pixelInstr_elementIndex (p : DitherPolicy) (im : ImageMetadata) {x : Nat} (y : Nat) (hx : x < im.width.toNat)
    (c : RgbColor) : pixelInstr p im (elementIndex im.width.toNat x y) c =
      quantInstr p im.variant (BitVec.ofNat 16 x) (BitVec.ofNat 16 y) c := by
  have hcol : elementIndex im.width.toNat x y % im.width.toNat = x := by
    rw [elementIndex, Nat.mul_add_mod', Nat.mod_eq_of_lt hx]
  have hrow : elementIndex im.width.toNat x y / im.width.toNat = y := by
    rw [elementIndex, Nat.mul_comm, Nat.mul_add_div (Nat.zero_lt_of_lt hx), Nat.div_eq_of_lt hx, Nat.add_zero]
  rw [pixelInstr, hcol, hrow]

/-- Settles O57: the expansion maps over the buffer, and index `y*w + x` is that of pixel (x, y). -/
theorem qimgExpansion : Obligations.QimgExpansion := by
  intro p im buf hlen
  rw [expandQimg_eq_mapIdx p hlen]
  refine ⟨List.length_mapIdx.trans hlen, fun x y hx hy => ?_⟩
  have hlt : elementIndex im.width.toNat x y < buf.length := hlen ▸ elementIndex_lt hx hy
  have hget : buf[elementIndex im.width.toNat x y]? = some buf[elementIndex im.width.toNat x y] :=
    List.getElem?_eq_getElem hlt
  refine ⟨_, hget, ?_⟩
  rw [← pixelInstr_elementIndex p im y hx, ← elementIndex, List.getElem?_mapIdx, hget, Option.map_some]

end Sys2Proof.Machine
end

section
/-! PROOFS. The assembler (R74): the operands of each form of line, the well-formed lines as the lines of operations,
and with that the agreement of `assemble` and `disassemble`. -/

namespace Sys2Proof.Machine

/-! ### Operands, one by one -/

/-- A number below `2^n` is the number of an n-bit word. -/
theorem exists_toNat_eq {n k : Nat} (h : k < 2 ^ n) : ∃ b : BitVec n, b.toNat = k :=
  ⟨BitVec.ofNat n k, Nat.mod_eq_of_lt h⟩

theorem isVariant_iff {o : AsmOperand} : o.isVariant = true ↔ ∃ v, o = .variant v := by
  cases o <;> simp [AsmOperand.isVariant]

theorem isPacked_iff {o : AsmOperand} : o.isPacked = true ↔ ∃ p : PackedValue, o = .packed p.toNat := by
  constructor
  · cases o with
    | packed n =>
      intro h
      obtain ⟨p, rfl⟩ := exists_toNat_eq (n := 16) (Nat.lt_succ_of_le (of_decide_eq_true h))
      exact ⟨p, rfl⟩
    | variant | colour | number => exact nofun
  · rintro ⟨p, rfl⟩
    exact decide_eq_true (Nat.le_of_lt_succ p.isLt)

theorem isIndexBelow_iff {n : Nat} {o : AsmOperand} :
    o.isIndexBelow (2 ^ n) = true ↔ ∃ i : BitVec n, o = .number i.toNat := by
  constructor
  · cases o with
    | number k =>
      intro h
      obtain ⟨i, rfl⟩ := exists_toNat_eq (of_decide_eq_true h)
      exact ⟨i, rfl⟩
    | variant | colour | packed => exact nofun
  · rintro ⟨i, rfl⟩
    exact decide_eq_true i.isLt

/-- A coordinate is an index of 16 bits. -/
theorem isCoord_eq_isIndexBelow (o : AsmOperand) : o.isCoord = o.isIndexBelow (2 ^ 16) := by
  cases o with
  | number n => exact decide_eq_decide.mpr Nat.lt_succ_iff.symm
  | variant | colour | packed => rfl

theorem isCoord_iff {o : AsmOperand} : o.isCoord = true ↔ ∃ x : Coord, o = .number x.toNat := by
  rw [isCoord_eq_isIndexBelow, isIndexBelow_iff]

theorem isColour_iff {o : AsmOperand} : o.isColour = true ↔ ∃ c, o = colourOperand c := by
  constructor
  · cases o with
    | colour r g b =>
      intro h
      simp only [AsmOperand.isColour, Bool.and_eq_true, decide_eq_true_eq] at h
      obtain ⟨⟨hr, hg⟩, hb⟩ := h
      obtain ⟨r, rfl⟩ := exists_toNat_eq (n := 8) (Nat.lt_succ_of_le hr)
      obtain ⟨g, rfl⟩ := exists_toNat_eq (n := 8) (Nat.lt_succ_of_le hg)
      obtain ⟨b, rfl⟩ := exists_toNat_eq (n := 8) (Nat.lt_succ_of_le hb)
      exact ⟨⟨r, g, b⟩, rfl⟩
    | variant | number | packed => exact nofun
  · rintro ⟨⟨r, g, b⟩, rfl⟩
    simp only [colourOperand, AsmOperand.isColour, Bool.and_eq_true, decide_eq_true_eq]
    exact ⟨⟨Nat.le_of_lt_succ r.isLt, Nat.le_of_lt_succ g.isLt⟩, Nat.le_of_lt_succ b.isLt⟩

/-! ### The operands of a form -/

theorem operandsPass_nil_iff {os : List AsmOperand} : operandsPass [] os = true ↔ os = [] := by
  cases os <;> simp [operandsPass]

theorem operandsPass_cons_iff {check : AsmOperand → Bool} {checks : List (AsmOperand → Bool)} {os : List AsmOperand} :
    operandsPass (check :: checks) os = true ↔
      ∃ o rest, check o = true ∧ operandsPass checks rest = true ∧ os = o :: rest := by
  cases os with
  | nil => simp [operandsPass]
  | cons o rest => simp [operandsPass]

/-- The operands of PACK. -/
theorem operandsPass_colour_iff {os : List AsmOperand} :
    operandsPass [AsmOperand.isVariant, AsmOperand.isColour] os = true ↔ ∃ v c, os = [.variant v, colourOperand c] := by
  simp only [operandsPass_cons_iff, operandsPass_nil_iff, isVariant_iff, isColour_iff]
  constructor
  · rintro ⟨_, _, ⟨v, rfl⟩, ⟨_, _, ⟨c, rfl⟩, rfl, rfl⟩, rfl⟩
    exact ⟨v, c, rfl⟩
  · rintro ⟨v, c, rfl⟩
    exact ⟨_, _, ⟨v, rfl⟩, ⟨_, _, ⟨c, rfl⟩, rfl, rfl⟩, rfl⟩

/-- The operands of UNPACK. -/
theorem operandsPass_packed_iff {os : List AsmOperand} :
    operandsPass [AsmOperand.isVariant, AsmOperand.isPacked] os = true ↔
      ∃ (v : Variant) (p : PackedValue), os = [.variant v, .packed p.toNat] := by
  simp only [operandsPass_cons_iff, operandsPass_nil_iff, isVariant_iff, isPacked_iff]
  constructor
  · rintro ⟨_, _, ⟨v, rfl⟩, ⟨_, _, ⟨p, rfl⟩, rfl, rfl⟩, rfl⟩
    exact ⟨v, p, rfl⟩
  · rintro ⟨v, p, rfl⟩
    exact ⟨_, _, ⟨v, rfl⟩, ⟨_, _, ⟨p, rfl⟩, rfl, rfl⟩, rfl⟩

/-- The operands of a C-PIX line. -/
theorem operandsPass_pix_iff {os : List AsmOperand} :
    operandsPass [AsmOperand.isVariant, AsmOperand.isCoord, AsmOperand.isCoord, AsmOperand.isColour] os = true ↔
      ∃ v x y c, os = pixOperands v x y c := by
  simp only [operandsPass_cons_iff, operandsPass_nil_iff, isVariant_iff, isCoord_iff, isColour_iff]
  constructor
  · rintro ⟨_, _, ⟨v, rfl⟩, ⟨_, _, ⟨x, rfl⟩, ⟨_, _, ⟨y, rfl⟩, ⟨_, _, ⟨c, rfl⟩, rfl, rfl⟩, rfl⟩, rfl⟩, rfl⟩
    exact ⟨v, x, y, c, rfl⟩
  · rintro ⟨v, x, y, c, rfl⟩
    exact ⟨_, _, ⟨v, rfl⟩, ⟨_, _, ⟨x, rfl⟩, ⟨_, _, ⟨y, rfl⟩, ⟨_, _, ⟨c, rfl⟩, rfl, rfl⟩, rfl⟩, rfl⟩, rfl⟩

/-- The operand of a table read. -/
theorem operandsPass_index_iff {n : Nat} {os : List AsmOperand} :
    operandsPass [AsmOperand.isIndexBelow (2 ^ n)] os = true ↔ ∃ i : BitVec n, os = [.number i.toNat] := by
  simp only [operandsPass_cons_iff, operandsPass_nil_iff, isIndexBelow_iff]
  constructor
  · rintro ⟨_, _, ⟨i, rfl⟩, rfl, rfl⟩
    exact ⟨i, rfl⟩
  · rintro ⟨i, rfl⟩
    exact ⟨_, _, ⟨i, rfl⟩, rfl, rfl⟩

/-! ### The well-formed lines -/

/-- The line of an operation is well formed: its operands are those of its form. -/
theorem wellFormed_disassemble (i : Instr) : (disassemble i).wellFormed = true := by
  cases i with
  | pack v c => exact operandsPass_colour_iff.mpr ⟨v, c, rfl⟩
  | unpack v p => exact operandsPass_packed_iff.mpr ⟨v, p, rfl⟩
  | dithN v x y c | dithO v x y c | dithS v x y c | quantN v x y c | quantO v x y c | quantS v x y c =>
    exact operandsPass_pix_iff.mpr ⟨v, x, y, c, rfl⟩
  | scd5 k | scd6 k | scu5 k | scu6 k => exact operandsPass_index_iff.mpr ⟨k, rfl⟩

/-- Every well-formed line is the line of an operation: the operands of its form are those of one. -/
theorem exists_disassemble_eq {l : AsmLine} (h : l.wellFormed = true) : ∃ i, disassemble i = l := by
  obtain ⟨m, os⟩ := l
  cases m with
  | pack =>
    obtain ⟨v, c, rfl⟩ := operandsPass_colour_iff.mp h
    exact ⟨.pack v c, rfl⟩
  | unpack =>
    obtain ⟨v, p, rfl⟩ := operandsPass_packed_iff.mp h
    exact ⟨.unpack v p, rfl⟩
  | dithN =>
    obtain ⟨v, x, y, c, rfl⟩ := operandsPass_pix_iff.mp h
    exact ⟨.dithN v x y c, rfl⟩
  | dithO =>
    obtain ⟨v, x, y, c, rfl⟩ := operandsPass_pix_iff.mp h
    exact ⟨.dithO v x y c, rfl⟩
  | dithS =>
    obtain ⟨v, x, y, c, rfl⟩ := operandsPass_pix_iff.mp h
    exact ⟨.dithS v x y c, rfl⟩
  | quantN =>
    obtain ⟨v, x, y, c, rfl⟩ := operandsPass_pix_iff.mp h
    exact ⟨.quantN v x y c, rfl⟩
  | quantO =>
    obtain ⟨v, x, y, c, rfl⟩ := operandsPass_pix_iff.mp h
    exact ⟨.quantO v x y c, rfl⟩
  | quantS =>
    obtain ⟨v, x, y, c, rfl⟩ := operandsPass_pix_iff.mp h
    exact ⟨.quantS v x y c, rfl⟩
  | scd5 =>
    obtain ⟨k, rfl⟩ := operandsPass_index_iff (n := 8).mp h
    exact ⟨.scd5 k, rfl⟩
  | scd6 =>
    obtain ⟨k, rfl⟩ := operandsPass_index_iff (n := 8).mp h
    exact ⟨.scd6 k, rfl⟩
  | scu5 =>
    obtain ⟨b, rfl⟩ := operandsPass_index_iff (n := 5).mp h
    exact ⟨.scu5 b, rfl⟩
  | scu6 =>
    obtain ⟨b, rfl⟩ := operandsPass_index_iff (n := 6).mp h
    exact ⟨.scu6 b, rfl⟩

/-- The assembler gives back the operation a line was written from. -/
theorem assemble_disassemble (i : Instr) : assemble (disassemble i) = some i := by
  rw [assemble, if_pos (wellFormed_disassemble i)]
  cases i <;> simp [disassemble, Instr.mnemonic, pixOperands, colourOperand]

/-- The assembler answers an operation exactly on that operation's line. -/
theorem assemble_eq_some_iff {l : AsmLine} {i : Instr} : assemble l = some i ↔ disassemble i = l := by
  constructor
  · intro h
    have hwf : l.wellFormed = true := by
      by_contra hwf
      rw [assemble, if_neg hwf] at h
      cases h
    obtain ⟨j, rfl⟩ := exists_disassemble_eq hwf
    rw [assemble_disassemble, Option.some.injEq] at h
    rw [h]
  · rintro rfl
    exact assemble_disassemble i

/-- Settles O60: the lines the assembler takes are the lines of operations, which are the well-formed ones. -/
theorem assemblerAgreesWithOperations : Obligations.AssemblerAgreesWithOperations := by
  refine ⟨fun i => ⟨wellFormed_disassemble i, assemble_disassemble i⟩, fun l => ⟨?_, fun h => ?_⟩,
    fun _ _ => assemble_eq_some_iff.mp, fun _ i _ => ⟨i, decode_encode i⟩⟩
  · rintro ⟨i, h⟩
    rw [← assemble_eq_some_iff.mp h]
    exact wellFormed_disassemble i
  · obtain ⟨i, hi⟩ := exists_disassemble_eq h
    exact ⟨i, assemble_eq_some_iff.mpr hi⟩

end Sys2Proof.Machine
end

section
/-! PROOFS. The layouts PV15 and PV16 (R68): the fields read from a value that was put together, a value put together
from its fields, and a field as a number. -/

namespace Sys2Proof

/-! ### Fields read from a packed value -/

@[simp] theorem red_pv15 (r g b : Bucket5) : PackedValue.red (pv15 r g b) = r := by
  apply BitVec.eq_of_toNat_eq
  rw [toNat_red, toNat_pv15]; omega

@[simp] theorem green15_pv15 (r g b : Bucket5) : PackedValue.green15 (pv15 r g b) = g := by
  apply BitVec.eq_of_toNat_eq
  rw [toNat_green15, toNat_pv15]; omega

@[simp] theorem blue15_pv15 (r g b : Bucket5) : PackedValue.blue15 (pv15 r g b) = b := by
  apply BitVec.eq_of_toNat_eq
  rw [toNat_blue15, toNat_pv15]; omega

@[simp] theorem reserved15_pv15 (r g b : Bucket5) : PackedValue.reserved15 (pv15 r g b) = false := by
  rw [Bool.eq_false_iff, Ne, reserved15_iff, toNat_pv15]; omega

@[simp] theorem red_pv16 (r : Bucket5) (g : Bucket6) (b : Bucket5) : PackedValue.red (pv16 r g b) = r := by
  apply BitVec.eq_of_toNat_eq
  rw [toNat_red, toNat_pv16]; omega

@[simp] theorem green16_pv16 (r : Bucket5) (g : Bucket6) (b : Bucket5) : PackedValue.green16 (pv16 r g b) = g := by
  apply BitVec.eq_of_toNat_eq
  rw [toNat_green16, toNat_pv16]; omega

@[simp] theorem blue16_pv16 (r : Bucket5) (g : Bucket6) (b : Bucket5) : PackedValue.blue16 (pv16 r g b) = b := by
  apply BitVec.eq_of_toNat_eq
  rw [toNat_blue16, toNat_pv16]; omega

/-! ### A packed value from its fields -/

/-- PV15 leaves out the reserved bit and nothing else. -/
theorem pv15_fields {p : PackedValue} (h : p.toNat < 0x8000) :
    pv15 (PackedValue.red p) (PackedValue.green15 p) (PackedValue.blue15 p) = p := by
  apply BitVec.eq_of_toNat_eq
  rw [toNat_pv15, toNat_red, toNat_green15, toNat_blue15]; omega

/-- PV16 leaves out no bit. -/
theorem pv16_fields (p : PackedValue) :
    pv16 (PackedValue.red p) (PackedValue.green16 p) (PackedValue.blue16 p) = p := by
  apply BitVec.eq_of_toNat_eq
  rw [toNat_pv16, toNat_red, toNat_green16, toNat_blue16]; omega

/-! ### A field as a number -/

theorem extractLsb'_eq_ofNat {w : Nat} (p : BitVec w) (start n : Nat) :
    p.extractLsb' start n = BitVec.ofNat n (p.toNat / 2 ^ start % 2 ^ n) := by
  apply BitVec.eq_of_toNat_eq
  rw [BitVec.extractLsb'_toNat, BitVec.toNat_ofNat, Nat.mod_mod, Nat.shiftRight_eq_div_pow]

theorem red_eq_ofNat (p : PackedValue) : PackedValue.red p = BitVec.ofNat 5 (p.toNat % 32) := by
  rw [PackedValue.red, extractLsb'_eq_ofNat, Nat.pow_zero, Nat.div_one]
  rfl

theorem green15_eq_ofNat (p : PackedValue) : PackedValue.green15 p = BitVec.ofNat 5 (p.toNat / 2 ^ 5 % 32) :=
  extractLsb'_eq_ofNat p 5 5

theorem blue15_eq_ofNat (p : PackedValue) : PackedValue.blue15 p = BitVec.ofNat 5 (p.toNat / 2 ^ 10 % 32) :=
  extractLsb'_eq_ofNat p 10 5

theorem green16_eq_ofNat (p : PackedValue) : PackedValue.green16 p = BitVec.ofNat 6 (p.toNat / 2 ^ 5 % 64) :=
  extractLsb'_eq_ofNat p 5 6

theorem blue16_eq_ofNat (p : PackedValue) : PackedValue.blue16 p = BitVec.ofNat 5 (p.toNat / 2 ^ 11 % 32) :=
  extractLsb'_eq_ofNat p 11 5

/-- The word with the number that the encoder writes for an operation decodes to it. -/
theorem decode_ofNat_of_toNat_encode {i : Instr} {n : Nat} (h : (encode i).toNat = n) :
    decode (BitVec.ofNat 64 n) = .ok i :=
  decode_of_encode_eq (by rw [← h, BitVec.ofNat_toNat, BitVec.setWidth_eq])

end Sys2Proof
end

section
/-! PROOFS. The Value Packer (R90 to R95): what UNPACK makes of a value, the round trip through a packed value in both
directions, and the responses of PACK and UNPACK as numbers. -/

namespace Sys2Proof.Machine

/-! ### UNPACK of a value, R91 -/

theorem unpackValue_v15_reserved (t : Tables) {p : PackedValue} (h : 0x8000 ≤ p.toNat) :
    unpackValue t .v15 p = .error .invalidValue :=
  if_pos ((reserved15_iff p).mpr h)

theorem unpackValue_v15_legal (t : Tables) {p : PackedValue} (h : p.toNat < 0x8000) :
    unpackValue t .v15 p = .ok ⟨t.up5At (PackedValue.red p), t.up5At (PackedValue.green15 p),
      t.up5At (PackedValue.blue15 p)⟩ :=
  if_neg fun hr => Nat.not_le.mpr h ((reserved15_iff p).mp hr)

theorem unpackValue_v16 (t : Tables) (p : PackedValue) :
    unpackValue t .v16 p = .ok ⟨t.up5At (PackedValue.red p), t.up6At (PackedValue.green16 p),
      t.up5At (PackedValue.blue16 p)⟩ := rfl

/-- Only a value below 0x8000 unpacks to a colour under Variant15. -/
theorem lt_of_unpackValue_v15 {t : Tables} {p : PackedValue} {c : RgbColor} (h : unpackValue t .v15 p = .ok c) :
    p.toNat < 0x8000 := by
  by_contra hge
  rw [unpackValue_v15_reserved t (Nat.not_lt.mp hge)] at h
  cases h

/-! ### From a colour and back, R92, R94, R95 -/

/-- The colour that a round trip through a packed value makes of a colour (R95). -/
def roundTrip (t : Tables) (v : Variant) (c : RgbColor) : RgbColor :=
  { r := t.up5At (t.down5At c.r),
    g := match v with
      | .v15 => t.up5At (t.down5At c.g)
      | .v16 => t.up6At (t.down6At c.g),
    b := t.up5At (t.down5At c.b) }

theorem unpackValue_packValue (t : Tables) (v : Variant) (c : RgbColor) :
    unpackValue t v (packValue t v c) = .ok (roundTrip t v c) := by
  cases v with
  | v15 => simp [packValue, unpackValue, roundTrip]
  | v16 => simp [packValue, unpackValue, roundTrip]

/-- Where the down table undoes the up table, an intensity is kept by a round trip exactly if it is a representative. -/
theorem up_down_eq_iff {α β : Type} {down : α → β} {up : β → α} (h : Function.LeftInverse down up) (i : α) :
    up (down i) = i ↔ ∃ b, i = up b := by
  constructor
  · exact fun hi => ⟨down i, hi.symm⟩
  · rintro ⟨b, rfl⟩
    rw [h b]

theorem roundTrip_eq_self_iff {t : Tables} (ht : t.Lawful) (v : Variant) (c : RgbColor) :
    roundTrip t v c = c ↔ (∃ b, c.r = t.up5At b) ∧
      (match v with | .v15 => ∃ b, c.g = t.up5At b | .v16 => ∃ b, c.g = t.up6At b) ∧ ∃ b, c.b = t.up5At b := by
  obtain ⟨r, g, b⟩ := c
  cases v with
  | v15 => simp only [roundTrip, RgbColor.mk.injEq, up_down_eq_iff ht.fixed5]
  | v16 => simp only [roundTrip, RgbColor.mk.injEq, up_down_eq_iff ht.fixed5, up_down_eq_iff ht.fixed6]

theorem roundTrip_roundTrip {t : Tables} (ht : t.Lawful) (v : Variant) (c : RgbColor) :
    roundTrip t v (roundTrip t v c) = roundTrip t v c := by
  refine (roundTrip_eq_self_iff ht v _).mpr ⟨⟨_, rfl⟩, ?_, ⟨_, rfl⟩⟩
  cases v with
  | v15 => exact ⟨_, rfl⟩
  | v16 => exact ⟨_, rfl⟩

/-- Settles O25: PV15 leaves the reserved bit clear. -/
theorem packNeverSetsReservedBit : Obligations.PackNeverSetsReservedBit :=
  fun t c => ⟨reserved15_pv15 .., unpackValue_packValue_ok t .v15 c⟩

/-- Settles O23: the colour is the first round trip's, and a second one keeps it. -/
theorem quantizationIsIdempotent : Obligations.QuantizationIsIdempotent := by
  intro t v c ht
  refine ⟨roundTrip t v c, unpackValue_packValue t v c, ?_⟩
  rw [unpackValue_packValue, roundTrip_roundTrip ht]

/-- Settles O26: `roundTrip`, and its distance on this hardware by the formulas of R26 (c). -/
theorem roundTripColour : Obligations.RoundTripColour := by
  refine ⟨fun t c => ⟨unpackValue_packValue t .v15 c, unpackValue_packValue t .v16 c⟩, fun i => ⟨?_, ?_⟩,
    ⟨4, by decide⟩, ⟨2, by decide⟩⟩
  · rw [toNat_up5At_default, toNat_down5At_default]; omega
  · rw [toNat_up6At_default, toNat_down6At_default]; omega

/-! ### From a value and back, R93 -/

theorem packValue_of_unpackValue {t : Tables} (ht : t.Lawful) {v : Variant} {p : PackedValue} {c : RgbColor}
    (h : unpackValue t v p = .ok c) : packValue t v c = p := by
  cases v with
  | v15 =>
    have hp := lt_of_unpackValue_v15 h
    rw [unpackValue_v15_legal t hp] at h
    cases h
    simp only [packValue, ht.fixed5, pv15_fields hp]
  | v16 =>
    rw [unpackValue_v16] at h
    cases h
    simp only [packValue, ht.fixed5, ht.fixed6, pv16_fields]

/-- Settles O24: the tables undo each other on representatives, and the layouts lose no bit of a legal value. -/
theorem packUndoesUnpack : Obligations.PackUndoesUnpack := by
  refine ⟨fun t v p c ht => packValue_of_unpackValue ht, fun t v c ht => ?_⟩
  rw [unpackValue_packValue, Except.ok.injEq]
  exact roundTrip_eq_self_iff ht v c

/-! ### PACK's response, R90 -/

/-- PACK answers the packed value with status OK, and nothing else changes. -/
theorem exec_pack_eq_answered (v : Variant) (c : RgbColor) (s : State) :
    exec (.pack v c) s = .next (s.answered (packValue s.params.tables v c).toNat) := by
  rw [exec_eq_deliver, responseOf, okResponse_eq_ofNat, toNat_dataOfPacked, State.deliver, State.answered]

theorem packValue_default_samples :
    (∀ v, (packValue defaultTables v ⟨0, 0, 0⟩).toNat = 0) ∧
    (packValue defaultTables .v15 ⟨255, 255, 255⟩).toNat = 0x7FFF ∧
    (packValue defaultTables .v16 ⟨255, 255, 255⟩).toNat = 0xFFFF ∧
    (packValue defaultTables .v16 ⟨200, 100, 50⟩).toNat = 0x3338 := by
  refine ⟨fun v => ?_, by decide, by decide, by decide⟩
  cases v <;> decide

/-- Where a down table differs from a shift, found by the formula for its entries (R26 (c)). -/
theorem filter_ne_shift_eq {n : Nat} {down : Channel → BitVec n} {top : Nat}
    (h : ∀ i, (down i).toNat = (2 * i.toNat * top + 255) / 510) (k : Nat) :
    (List.range 256).filter (fun i => (down (BitVec.ofNat 8 i)).toNat ≠ i / k) =
      (List.range 256).filter (fun i => (2 * i * top + 255) / 510 ≠ i / k) := by
  refine List.filter_congr fun i hi => ?_
  rw [h, BitVec.toNat_ofNat, Nat.mod_eq_of_lt (List.mem_range.mp hi)]

/-- Settles O21: the layouts as sums; black, white and the example evaluated; the inputs that a shift would answer
otherwise counted by the formulas of R26 (c). -/
theorem packAnswersPackedValue : Obligations.PackAnswersPackedValue := by
  obtain ⟨hblack, hwhite15, hwhite16, hexample⟩ := packValue_default_samples
  refine ⟨fun c s => ⟨?_, ?_⟩, fun v c => decode_ofNat_of_toNat_encode (toNat_formC_dataOfColour ..),
    fun s hs => ⟨fun v => ?_, ?_, ?_, ?_⟩, fun r hr => ?_, ?_, ?_⟩
  · rw [exec_pack_eq_answered, packValue, toNat_pv15]
  · rw [exec_pack_eq_answered, packValue, toNat_pv16]
  · rw [exec_pack_eq_answered, hs, hblack]
  · rw [exec_pack_eq_answered, hs, hwhite15]
  · rw [exec_pack_eq_answered, hs, hwhite16]
  · rw [exec_pack_eq_answered, hs, hexample]
  · apply BitVec.eq_of_toNat_eq
    rw [toNat_down5At_default]
    exact Nat.div_eq_of_lt (by omega)
  · rw [filter_ne_shift_eq toNat_down5At_default]
    decide
  · rw [filter_ne_shift_eq toNat_down6At_default]
    decide

/-! ### UNPACK's response, R91 -/

/-- UNPACK answers a colour with its DATA word and status OK, and nothing else changes. -/
theorem exec_unpack_ok {v : Variant} {p : PackedValue} {s : State} {c : RgbColor}
    (h : unpackValue s.params.tables v p = .ok c) :
    exec (.unpack v p) s = .next (s.answered (c.r.toNat + c.g.toNat * 2 ^ 8 + c.b.toNat * 2 ^ 16)) := by
  rw [exec_eq_deliver, responseOf, h, responseOf.colourResponse, deliver_okResponse_dataOfColour]

/-- UNPACK of a value with the reserved bit set raises InvalidValue under Variant15, and nothing else changes. -/
theorem exec_unpack_v15_reserved {p : PackedValue} (h : 0x8000 ≤ p.toNat) (s : State) :
    exec (.unpack .v15 p) s = .next (s.answered 0x10000000) := by
  rw [exec_eq_deliver, responseOf, unpackValue_v15_reserved _ h, responseOf.colourResponse, errorResponse_eq_ofNat]
  rfl

/-- Settles O22: the three cases of UNPACK; distinct values have distinct colours since PACK undoes UNPACK. -/
theorem unpackAnswersColour : Obligations.UnpackAnswersColour := by
  refine ⟨fun p s => ⟨fun h => exec_unpack_v15_reserved h s, fun h => ?_, ?_⟩,
    fun v p => decode_ofNat_of_toNat_encode (toNat_formC_dataOfPacked ..), fun t v p p' c ht h h' => ?_,
    fun s hs => ?_, exec_unpack_v15_reserved (by decide)⟩
  · rw [exec_unpack_ok (unpackValue_v15_legal _ h), red_eq_ofNat, green15_eq_ofNat, blue15_eq_ofNat]
  · rw [exec_unpack_ok (unpackValue_v16 _ p), red_eq_ofNat, green16_eq_ofNat, blue16_eq_ofNat]
  · rw [← packValue_of_unpackValue ht h, packValue_of_unpackValue ht h']
  · have hcolour : unpackValue s.params.tables .v16 0x3338 = .ok ⟨0xC5, 0x65, 0x31⟩ := by rw [hs]; decide
    exact exec_unpack_ok hcolour

end Sys2Proof.Machine
end

section
/-! PROOFS. The Lookup Tables (R110 to R114): the response of a table read as a number, the illegal words with the OP of
a table read, and the fixed-point property through transactions. -/

namespace Sys2Proof.Machine

/-! ### The response of a table read -/

/-- An entry that is answered is the response word with its number: ST is 0, and the bits above the entry are zero. -/
theorem okResponse_dataOfIndex {n : Nat} (h : n ≤ 24) (k : BitVec n) :
    okResponse (dataOfIndex k) = BitVec.ofNat 32 k.toNat := by
  rw [okResponse_eq_ofNat, toNat_dataOfIndex h]

theorem responseOf_scd5 (prm : Params) (i : Channel) :
    responseOf prm (.scd5 i) = BitVec.ofNat 32 (prm.tables.down5At i).toNat :=
  okResponse_dataOfIndex (by decide) _

theorem responseOf_scd6 (prm : Params) (i : Channel) :
    responseOf prm (.scd6 i) = BitVec.ofNat 32 (prm.tables.down6At i).toNat :=
  okResponse_dataOfIndex (by decide) _

theorem responseOf_scu5 (prm : Params) (b : Bucket5) :
    responseOf prm (.scu5 b) = BitVec.ofNat 32 (prm.tables.up5At b).toNat :=
  okResponse_dataOfIndex (by decide) _

theorem responseOf_scu6 (prm : Params) (b : Bucket6) :
    responseOf prm (.scu6 b) = BitVec.ofNat 32 (prm.tables.up6At b).toNat :=
  okResponse_dataOfIndex (by decide) _

/-- An operation whose response word has a known number delivers that word, and nothing else changes. -/
theorem exec_eq_answered {i : Instr} {s : State} {n : Nat} (h : responseOf s.params i = BitVec.ofNat 32 n) :
    exec i s = .next (s.answered n) := by
  rw [exec_eq_deliver, h, State.deliver, State.answered]

theorem transact_encode (prm : Params) (i : Instr) : transact prm (encode i) = some (responseOf prm i) := by
  rw [transact_eq_responseTo, responseTo_ok (decode_encode i)]

/-! ### The words of a table read -/

/-- The word of a table read holds OP and the index, and is zero elsewhere (R61, R66). -/
theorem toNat_formC_index (op : BitVec 4) {n : Nat} (h : n ≤ 24) (i : BitVec n) :
    (formC op 0#2 0#1 0#1 0#16 0#16 (dataOfIndex i)).toNat = op.toNat * 2 ^ 60 + i.toNat := by
  rw [toNat_formC_dataOfIndex op h, commandNum]
  omega

/-- A nonzero bit between an index of n bits and OP lies in one of the fields below OP, or in DATA above the index. -/
theorem field_ne_zero_of_bits_above {w n : Nat} (hn : n ≤ 24) (h : w / 2 ^ n % 2 ^ (60 - n) ≠ 0) :
    w / 2 ^ 56 % 2 = 1 ∨ (w / 2 ^ 58 % 4 ≠ 0 ∨ w / 2 ^ 57 % 2 ≠ 0 ∨ w / 2 ^ 24 % 2 ^ 32 ≠ 0) ∨ 2 ^ n ≤ w % 2 ^ 24 := by
  have hbelow : w / 2 ^ n % 2 ^ (60 - n) = w % 2 ^ 60 / 2 ^ n := by
    rw [← Nat.mod_mul_right_div_self, ← pow_add, Nat.add_sub_cancel' (by omega)]
  have hle : 2 ^ n ≤ w % 2 ^ 60 := by
    by_contra hlt
    exact h (hbelow.trans (Nat.div_eq_of_lt (Nat.not_le.mp hlt)))
  by_contra hzero
  have hdata : w % 2 ^ 60 = w % 2 ^ 24 := by omega
  rw [hdata] at hle
  exact hzero (.inr (.inr hle))

/-- A word with the OP of a table read whose index has n bits, and a nonzero bit above the index, is illegal: whichever
field the bit lies in, R71 lists the case. -/
theorem decode_bits_above_index {w : Command} {n : Nat}
    (hop : (w.toNat / 2 ^ 60 = 8 ∨ w.toNat / 2 ^ 60 = 9) ∧ n = 8 ∨ w.toNat / 2 ^ 60 = 10 ∧ n = 5 ∨
      w.toNat / 2 ^ 60 = 11 ∧ n = 6)
    (h : w.toNat / 2 ^ n % 2 ^ (60 - n) ≠ 0) : decode w = .error .illegalCommand := by
  have hread : w.toNat / 2 ^ 60 = 8 ∨ w.toNat / 2 ^ 60 = 9 ∨ w.toNat / 2 ^ 60 = 10 ∨ w.toNat / 2 ^ 60 = 11 := by omega
  refine (illegalWordsAreExactlyTheListed w).1.mpr (.inr (.inr ?_))
  rcases field_ne_zero_of_bits_above (by omega) h with hz | hunused | hdata
  · exact .inl hz
  · exact .inr (.inr (.inl ⟨hread, hunused⟩))
  · refine .inr (.inr (.inr (.inr ?_)))
    rcases hop with ⟨hop, rfl⟩ | ⟨hop, rfl⟩ | ⟨hop, rfl⟩
    · exact .inl ⟨hop, hdata⟩
    · exact .inr (.inl ⟨hop, hdata⟩)
    · exact .inr (.inr ⟨hop, hdata⟩)

/-! ### The four table reads, R110 to R113 -/

/-- Settles O27: the corner cases are evaluated on this hardware's DOWN5. -/
theorem scd5ReadsDown5 : Obligations.Scd5ReadsDown5 := by
  refine ⟨fun i s => exec_eq_answered (responseOf_scd5 _ i),
    fun i => decode_ofNat_of_toNat_encode (toNat_formC_index 8 (by decide) i),
    fun w hop => decode_bits_above_index (.inl ⟨.inl hop, rfl⟩), fun s hs e he => exec_eq_answered ?_⟩
  rw [responseOf_scd5, hs]
  revert e
  decide

/-- Settles O28: the corner cases are evaluated on this hardware's DOWN6. -/
theorem scd6ReadsDown6 : Obligations.Scd6ReadsDown6 := by
  refine ⟨fun i s => exec_eq_answered (responseOf_scd6 _ i),
    fun i => decode_ofNat_of_toNat_encode (toNat_formC_index 9 (by decide) i),
    fun w hop => decode_bits_above_index (.inl ⟨.inr hop, rfl⟩), fun s hs e he => exec_eq_answered ?_⟩
  rw [responseOf_scd6, hs]
  revert e
  decide

/-- Settles O29: the corner cases are evaluated on this hardware's UP5. -/
theorem scu5ReadsUp5 : Obligations.Scu5ReadsUp5 := by
  refine ⟨fun b s => exec_eq_answered (responseOf_scu5 _ b),
    fun b => decode_ofNat_of_toNat_encode (toNat_formC_index 10 (by decide) b),
    fun w hop => decode_bits_above_index (.inr (.inl ⟨hop, rfl⟩)), fun s hs e he => exec_eq_answered ?_⟩
  rw [responseOf_scu5, hs]
  revert e
  decide

/-- Settles O30: the corner cases are evaluated on this hardware's UP6. -/
theorem scu6ReadsUp6 : Obligations.Scu6ReadsUp6 := by
  refine ⟨fun b s => exec_eq_answered (responseOf_scu6 _ b),
    fun b => decode_ofNat_of_toNat_encode (toNat_formC_index 11 (by decide) b),
    fun w hop => decode_bits_above_index (.inr (.inr ⟨hop, rfl⟩)), fun s hs e he => exec_eq_answered ?_⟩
  rw [responseOf_scu6, hs]
  revert e
  decide

/-! ### The fixed-point property, R114 -/

/-- Settles O31: SCU answers the representative of the bucket, and the down table undoes the up table on it. -/
theorem fixedPointThroughOperations : Obligations.FixedPointThroughOperations := by
  refine fun prm ht => ⟨fun b => ⟨prm.tables.up5At b, ?_, ?_⟩, fun b => ⟨prm.tables.up6At b, ?_, ?_⟩,
    fun u => (up_down_eq_iff ht.fixed5 u).trans (exists_congr fun _ => eq_comm),
    fun u => (up_down_eq_iff ht.fixed6 u).trans (exists_congr fun _ => eq_comm)⟩
  · rw [transact_encode, responseOf_scu5]
  · rw [transact_encode, responseOf_scd5, ht.fixed5]
  · rw [transact_encode, responseOf_scu6]
  · rw [transact_encode, responseOf_scd6, ht.fixed6]

end Sys2Proof.Machine
end

section
/-! PROOFS. The ordered policy (R131, R133, R134, R139): the threshold as a matrix entry, the bucket of a channel
as a number, its representative, and a whole colour under DITH.O. -/

namespace Sys2Proof.Machine

/-! ### The threshold, R133 -/

theorem getElem?_bayerAt (t : Tables) (row col : BitVec 3) :
    t.bayer[8 * row.toNat + col.toNat]? = some (t.bayerAt row col) :=
  Vector.getElem?_eq_getElem _

/-- The low three bits of each coordinate are the row and the column of the threshold. -/
theorem getElem?_thr (t : Tables) (x y : Coord) :
    t.bayer[8 * (y.toNat % 8) + x.toNat % 8]? = some (thr t x y) := by
  have hlow (n : Nat) : (BitVec.ofNat 3 (n % 8)).toNat = n % 8 := by rw [BitVec.toNat_ofNat]; omega
  rw [thr, ← getElem?_bayerAt, hlow, hlow]

theorem thr_congr (t : Tables) {x y x' y' : Coord} (hx : x.toNat % 8 = x'.toNat % 8) (hy : y.toNat % 8 = y'.toNat % 8) :
    thr t x y = thr t x' y' := by
  rw [thr, thr, hx, hy]

theorem toNat_xField (w : Command) : (Command.xField w).toNat = w.toNat / 2 ^ 24 % 2 ^ 16 := by
  rw [Command.xField, BitVec.extractLsb'_toNat, Nat.shiftRight_eq_div_pow]

theorem toNat_yField (w : Command) : (Command.yField w).toNat = w.toNat / 2 ^ 40 % 2 ^ 16 := by
  rw [Command.yField, BitVec.extractLsb'_toNat, Nat.shiftRight_eq_div_pow]

/-- Settles O36: the index of R133, and the bits of the word it is made of. -/
theorem thresholdIsMatrixEntry : Obligations.ThresholdIsMatrixEntry := by
  refine ⟨fun t x y => ⟨getElem?_thr t x y, Nat.le_of_lt_succ (thr t x y).isLt⟩, fun t w => ?_⟩
  rw [← getElem?_thr, toNat_xField, toNat_yField, Nat.mod_mod_of_dvd _ (by decide), Nat.mod_mod_of_dvd _ (by decide)]

/-! ### The bucket and its representative, R134 -/

theorem toNat_ofNat_ordBucket5 (k : Threshold) (c : Channel) :
    (BitVec.ofNat 5 (ordBucket 5 k c)).toNat = ordBucket 5 k c := by
  rw [BitVec.toNat_ofNat, Nat.mod_eq_of_lt (ordBucket5_lt k c)]

theorem toNat_ofNat_ordBucket6 (k : Threshold) (c : Channel) :
    (BitVec.ofNat 6 (ordBucket 6 k c)).toNat = ordBucket 6 k c := by
  rw [BitVec.toNat_ofNat, Nat.mod_eq_of_lt (ordBucket6_lt k c)]

theorem getElem?_ordch5 (t : Tables) (k : Threshold) (c : Channel) :
    t.up5[ordBucket 5 k c]? = some (ordch5 t k c) := by
  rw [Vector.getElem?_eq_getElem (ordBucket5_lt k c)]
  simp only [ordch5, Tables.up5At, toNat_ofNat_ordBucket5]

theorem getElem?_ordch6 (t : Tables) (k : Threshold) (c : Channel) :
    t.up6[ordBucket 6 k c]? = some (ordch6 t k c) := by
  rw [Vector.getElem?_eq_getElem (ordBucket6_lt k c)]
  simp only [ordch6, Tables.up6At, toNat_ofNat_ordBucket6]

/-- The two fractions of R134 over their common denominator. -/
theorem floor_add_threshold (a k : Nat) : ⌊(a / 255 + k / 64 : ℚ)⌋ = ((64 * a + 255 * k) / 16320 : Nat) := by
  have hfrac : (a / 255 + k / 64 : ℚ) = (64 * a + 255 * k : Nat) / (16320 : Nat) := by push_cast; ring
  rw [hfrac, Rat.floor_natCast_div_natCast, Int.natCast_div]

/-- Settles O37: the entries at the bucket, which is the floor of the sum of the two fractions. -/
theorem orderedChannelFunction : Obligations.OrderedChannelFunction := by
  intro t k c
  have hk := k.isLt
  have hc := c.isLt
  refine ⟨getElem?_ordch5 t k c, getElem?_ordch6 t k c, ?_, ?_, by omega, by omega⟩
  · rw [show 64 * 31 * c.toNat = 64 * (c.toNat * 31) by omega, ← floor_add_threshold, Nat.cast_mul, Nat.cast_ofNat]
  · rw [show 64 * 63 * c.toNat = 64 * (c.toNat * 63) by omega, ← floor_add_threshold, Nat.cast_mul, Nat.cast_ofNat]

/-! ### The laws of the ordered channel function, R139 -/

theorem ordBucket_mono (n : Nat) {k k' : Threshold} {c c' : Channel} (hk : k ≤ k') (hc : c ≤ c') :
    ordBucket n k c ≤ ordBucket n k' c' :=
  Nat.div_le_div_right (Nat.add_le_add (Nat.mul_le_mul_left _ hc) (Nat.mul_le_mul_left _ hk))

/-- A threshold adds less than one bucket. -/
theorem ordBucket_two_values (n : Nat) (k : Threshold) (c : Channel) :
    ordBucket n k c = c.toNat * (2 ^ n - 1) / 255 ∨ ordBucket n k c = c.toNat * (2 ^ n - 1) / 255 + 1 := by
  have hk := k.isLt
  rw [ordBucket, Nat.mul_assoc, Nat.mul_comm (2 ^ n - 1)]
  omega

/-- The threshold 32 adds one half, which rounds to the nearest bucket. -/
theorem ordBucket5_32 (c : Channel) : BitVec.ofNat 5 (ordBucket 5 32 c) = defaultTables.down5At c := by
  apply BitVec.eq_of_toNat_eq
  rw [toNat_ofNat_ordBucket5, toNat_down5At_default, ordBucket, show (32 : Threshold).toNat = 32 from rfl]
  omega

theorem ordBucket6_32 (c : Channel) : BitVec.ofNat 6 (ordBucket 6 32 c) = defaultTables.down6At c := by
  apply BitVec.eq_of_toNat_eq
  rw [toNat_ofNat_ordBucket6, toNat_down6At_default, ordBucket, show (32 : Threshold).toNat = 32 from rfl]
  omega

theorem ordBucket_black (n : Nat) (k : Threshold) : ordBucket n k 0 = 0 := by
  have hk := k.isLt
  rw [ordBucket, show (0 : Channel).toNat = 0 from rfl]
  omega

theorem ordBucket_white (n : Nat) (k : Threshold) : ordBucket n k 255 = 2 ^ n - 1 := by
  have hk := k.isLt
  rw [ordBucket, show (255 : Channel).toNat = 255 from rfl]
  omega

theorem up5At_default_mono {a b : Bucket5} (h : a ≤ b) : defaultTables.up5At a ≤ defaultTables.up5At b := by
  rw [BitVec.le_def] at h
  rw [BitVec.le_def, toNat_up5At_default, toNat_up5At_default]
  omega

theorem up6At_default_mono {a b : Bucket6} (h : a ≤ b) : defaultTables.up6At a ≤ defaultTables.up6At b := by
  rw [BitVec.le_def] at h
  rw [BitVec.le_def, toNat_up6At_default, toNat_up6At_default]
  omega

theorem ordch5_default_mono {k k' : Threshold} {c c' : Channel} (hk : k ≤ k') (hc : c ≤ c') :
    ordch5 defaultTables k c ≤ ordch5 defaultTables k' c' := by
  refine up5At_default_mono ?_
  rw [BitVec.le_def, toNat_ofNat_ordBucket5, toNat_ofNat_ordBucket5]
  exact ordBucket_mono 5 hk hc

theorem ordch6_default_mono {k k' : Threshold} {c c' : Channel} (hk : k ≤ k') (hc : c ≤ c') :
    ordch6 defaultTables k c ≤ ordch6 defaultTables k' c' := by
  refine up6At_default_mono ?_
  rw [BitVec.le_def, toNat_ofNat_ordBucket6, toNat_ofNat_ordBucket6]
  exact ordBucket_mono 6 hk hc

/-- R139 (a), for both depths. -/
theorem ordch_default_ends (k : Threshold) :
    ordch5 defaultTables k 0 = 0 ∧ ordch6 defaultTables k 0 = 0 ∧ ordch5 defaultTables k 255 = 255 ∧
      ordch6 defaultTables k 255 = 255 := by
  simp only [ordch5, ordch6, ordBucket_black, ordBucket_white]
  decide

theorem down5At_ordch5 {t : Tables} (ht : t.Lawful) (k : Threshold) (c : Channel) :
    t.down5At (ordch5 t k c) = BitVec.ofNat 5 (ordBucket 5 k c) :=
  ht.fixed5 _

theorem down6At_ordch6 {t : Tables} (ht : t.Lawful) (k : Threshold) (c : Channel) :
    t.down6At (ordch6 t k c) = BitVec.ofNat 6 (ordBucket 6 k c) :=
  ht.fixed6 _

/-- The tables of this hardware meet what R26 (a) and R25 promise of any. -/
theorem defaultTables_lawful : defaultTables.Lawful where
  fixed5 := down5At_up5At_default
  fixed6 := down6At_up6At_default
  bayerOnto k := ⟨bayerRow k, bayerCol k, bayerAt_default_position k⟩
  bayerOnce row col row' col' h := by
    obtain ⟨hrow, hcol⟩ := position_bayerAt_default row col
    obtain ⟨hrow', hcol'⟩ := position_bayerAt_default row' col'
    exact ⟨hrow.trans (h ▸ hrow'.symm), hcol.trans (h ▸ hcol'.symm)⟩

/-- Packing an ordered dither holds the buckets the dither chose, R139 (e). -/
theorem toNat_packValue_ditherOrdered {t : Tables} (ht : t.Lawful) (x y : Coord) (c : RgbColor) :
    (packValue t .v15 (ditherOrdered t .v15 x y c)).toNat =
      ordBucket 5 (thr t x y) c.r + ordBucket 5 (thr t x y) c.g * 2 ^ 5 + ordBucket 5 (thr t x y) c.b * 2 ^ 10 ∧
    (packValue t .v16 (ditherOrdered t .v16 x y c)).toNat =
      ordBucket 5 (thr t x y) c.r + ordBucket 6 (thr t x y) c.g * 2 ^ 5 + ordBucket 5 (thr t x y) c.b * 2 ^ 11 := by
  simp only [packValue, ditherOrdered, ordchGreen, down5At_ordch5 ht, down6At_ordch6 ht, toNat_pv15, toNat_pv16,
    toNat_ofNat_ordBucket5, toNat_ofNat_ordBucket6, and_self]

/-- Settles O40: each law from the bucket as a number and the formulas of R26 (c). -/
theorem orderedChannelLaws : Obligations.OrderedChannelLaws := by
  refine ⟨ordch_default_ends, fun c => ⟨?_, ?_⟩,
    fun k k' c hk => ⟨ordch5_default_mono hk (BitVec.le_refl c), ordch6_default_mono hk (BitVec.le_refl c)⟩,
    fun k c => ⟨ordBucket_two_values 5 k c, ordBucket_two_values 6 k c⟩,
    fun k c c' hc => ⟨ordch5_default_mono (BitVec.le_refl k) hc, ordch6_default_mono (BitVec.le_refl k) hc⟩,
    fun k c => ⟨?_, ?_⟩, toNat_packValue_ditherOrdered defaultTables_lawful⟩
  · rw [ordch5, ordBucket5_32]
  · rw [ordch6, ordBucket6_32]
  · rw [down5At_ordch5 defaultTables_lawful, toNat_ofNat_ordBucket5]; rfl
  · rw [down6At_ordch6 defaultTables_lawful, toNat_ofNat_ordBucket6]; rfl

/-! ### A whole colour, R131 -/

/-- DITH.O answers the ordered dither with status OK, and nothing else changes. -/
theorem exec_dithO_eq_answered (v : Variant) (x y : Coord) (c : RgbColor) (s : State) :
    exec (.dithO v x y c) s = .next (s.answered
      ((ordch5 s.params.tables (thr s.params.tables x y) c.r).toNat +
        (ordchGreen s.params.tables v (thr s.params.tables x y) c.g).toNat * 2 ^ 8 +
        (ordch5 s.params.tables (thr s.params.tables x y) c.b).toNat * 2 ^ 16)) := by
  rw [exec_eq_deliver, responseOf, deliver_okResponse_dataOfColour, dither, ditherOrdered]

/-- The channels of an ordered dither are representatives, so a round trip keeps it. -/
theorem roundTrip_ditherOrdered {t : Tables} (ht : t.Lawful) (v : Variant) (x y : Coord) (c : RgbColor) :
    roundTrip t v (ditherOrdered t v x y c) = ditherOrdered t v x y c := by
  refine (roundTrip_eq_self_iff ht v _).mpr ⟨⟨_, rfl⟩, ?_, ⟨_, rfl⟩⟩
  cases v with
  | v15 => exact ⟨_, rfl⟩
  | v16 => exact ⟨_, rfl⟩

theorem ditherOrdered_default_black_white (v : Variant) (x y : Coord) :
    ditherOrdered defaultTables v x y ⟨0, 0, 0⟩ = ⟨0, 0, 0⟩ ∧
      ditherOrdered defaultTables v x y ⟨255, 255, 255⟩ = ⟨255, 255, 255⟩ := by
  obtain ⟨hblack5, hblack6, hwhite5, hwhite6⟩ := ordch_default_ends (thr defaultTables x y)
  cases v with
  | v15 => simp only [ditherOrdered, ordchGreen, hblack5, hwhite5, and_self]
  | v16 => simp only [ditherOrdered, ordchGreen, hblack5, hblack6, hwhite5, hwhite6, and_self]

/-- Where the threshold is 32, the ordered dither is the round trip through a packed value. -/
theorem ditherOrdered_default_32 (v : Variant) {x y : Coord} (c : RgbColor) (h : thr defaultTables x y = 32) :
    ditherOrdered defaultTables v x y c = roundTrip defaultTables v c := by
  cases v with
  | v15 => simp only [ditherOrdered, ordchGreen, roundTrip, h, ordch5, ordBucket5_32]
  | v16 => simp only [ditherOrdered, ordchGreen, roundTrip, h, ordch5, ordch6, ordBucket5_32, ordBucket6_32]

theorem ditherOrdered_congr (t : Tables) (v : Variant) {x y x' y' : Coord} (c : RgbColor)
    (hx : x.toNat % 8 = x'.toNat % 8) (hy : y.toNat % 8 = y'.toNat % 8) :
    ditherOrdered t v x y c = ditherOrdered t v x' y' c := by
  rw [ditherOrdered, ditherOrdered, thr_congr t hx hy]

/-- Settles O33: the response by the definitions of R133 and R134; packing and k = 32 as round trips; the two examples
evaluated. -/
theorem dithOAddsBayerThreshold : Obligations.DithOAddsBayerThreshold := by
  refine ⟨fun x y c s => ⟨exec_dithO_eq_answered .v15 x y c s, exec_dithO_eq_answered .v16 x y c s⟩,
    fun v x y c => decode_ofNat_of_toNat_encode (toNat_formC_dataOfColour ..), fun t v x y c ht => ?_,
    ditherOrdered_default_black_white, fun v x y c h => ?_, fun t v x y x' y' c => ditherOrdered_congr t v c,
    fun s hs => ⟨?_, ?_⟩⟩
  · rw [unpackValue_packValue, roundTrip_ditherOrdered ht]
  · rw [unpackValue_packValue, ditherOrdered_default_32 v c h]
  · rw [exec_dithO_eq_answered, hs]; rfl
  · rw [exec_dithO_eq_answered, hs]; rfl

end Sys2Proof.Machine
end

section
/-! PROOFS. The stochastic policy (R132, R136, R137, R140): the mask in its three forms and along a row, the level of a
channel and its value scaled back, and a whole colour under DITH.S. -/

namespace Sys2Proof.Machine

/-! ### The mask, R136 -/

/-- Only the low eight bits of each coordinate count, and `237 * 119` is 43 modulo 256. -/
theorem toNat_smask_reduced (x y : Coord) : (smask x y).toNat = (119 * x.toNat + 43 * y.toNat) % 256 := by
  rw [toNat_smask]; omega

theorem smask_eq_wrapped (x y : Coord) : smask x y = (x.setWidth 8 + 237#8 * y.setWidth 8) * 119#8 := by
  apply BitVec.eq_of_toNat_eq
  simp only [toNat_smask, BitVec.toNat_mul, BitVec.toNat_add, BitVec.toNat_setWidth, BitVec.toNat_ofNat]
  omega

theorem smask_congr {x y x' y' : Coord} (hx : x.toNat % 256 = x'.toNat % 256) (hy : y.toNat % 256 = y'.toNat % 256) :
    smask x y = smask x' y' := by
  apply BitVec.eq_of_toNat_eq
  rw [toNat_smask, toNat_smask]
  omega

/-- Settles O38: the three forms, the bits of the word, and the listed values evaluated. -/
theorem stochasticMask : Obligations.StochasticMask := by
  refine ⟨fun x y => ⟨toNat_smask x y, smask_eq_wrapped x y, toNat_smask_reduced x y⟩, fun w => ⟨?_, ?_⟩, by decide⟩
  · rw [toNat_xField, Nat.mod_mod_of_dvd _ (by decide)]
  · rw [toNat_yField, Nat.mod_mod_of_dvd _ (by decide)]

/-- The columns of a row that have a given mask: 119 is odd, and 71 is its inverse modulo 256. -/
theorem smask_column_iff (x0 j y : Nat) (m : Mask) :
    smask (BitVec.ofNat 16 (x0 + j)) (BitVec.ofNat 16 y) = m ↔
      j % 256 = 71 * (m.toNat + 255 * (119 * x0 + 43 * y)) % 256 := by
  have hm := m.isLt
  rw [← BitVec.toNat_inj, toNat_smask_reduced, BitVec.toNat_ofNat, BitVec.toNat_ofNat]
  omega

/-- R140 (f): among 256 consecutive columns, exactly one has a given mask. -/
theorem existsUnique_column_of_mask (x0 y : Nat) (m : Mask) :
    ∃ j, j < 256 ∧ smask (BitVec.ofNat 16 (x0 + j)) (BitVec.ofNat 16 y) = m ∧
      ∀ j', j' < 256 → smask (BitVec.ofNat 16 (x0 + j')) (BitVec.ofNat 16 y) = m → j' = j := by
  refine ⟨71 * (m.toNat + 255 * (119 * x0 + 43 * y)) % 256, Nat.mod_lt _ (by decide), ?_, fun j' hlt h => ?_⟩
  · rw [smask_column_iff, Nat.mod_mod]
  · rw [← (smask_column_iff x0 j' y m).mp h, Nat.mod_eq_of_lt hlt]

/-! ### The level and its value, R137 -/

theorem stochLevel_white (l : Nat) (m : Mask) : stochLevel l m 255 = l :=
  Nat.min_eq_right ((Nat.le_div_iff_mul_le (by decide)).mpr (Nat.le_add_right _ _))

section Level
variable {l : Nat} (hl : 0 < l)
include hl

/-- The stochastic channel function of this hardware, which rounds down (R6). -/
theorem toNat_stoch_floor (m : Mask) (c : Channel) :
    (stoch .floor l m c).toNat = 255 * stochLevel l m c / l := by
  rw [toNat_stoch .floor hl, scaleBack]

/-- Before the clamp, a level is above L only for the greatest channel under the greatest mask. -/
theorem lt_level_iff (m : Mask) (c : Channel) : l < (l * c.toNat + m.toNat) / 255 ↔ c = 255 ∧ m = 255 := by
  have hm := m.isLt
  rw [Nat.lt_iff_add_one_le, Nat.le_div_iff_mul_le (by decide)]
  constructor
  · intro h
    have hc : c.toNat = 255 := by
      by_contra hne
      have hle := Nat.mul_le_mul_left l (show c.toNat ≤ 254 by have := c.isLt; omega)
      omega
    rw [hc] at h
    exact ⟨BitVec.eq_of_toNat_eq hc, BitVec.eq_of_toNat_eq (show m.toNat = 255 by omega)⟩
  · rintro ⟨rfl, rfl⟩
    exact Nat.le_of_eq (Nat.add_one_mul l 255)

/-- R140 (a): the clamp acts in that one case. -/
theorem level_ne_stochLevel_iff (m : Mask) (c : Channel) :
    (l * c.toNat + m.toNat) / 255 ≠ stochLevel l m c ↔ c = 255 ∧ m = 255 := by
  rw [← lt_level_iff hl, stochLevel]
  omega

theorem stoch_floor_white (m : Mask) : stoch .floor l m 255 = 255 := by
  apply BitVec.eq_of_toNat_eq
  rw [toNat_stoch_floor hl, stochLevel_white, Nat.mul_div_cancel _ hl]
  rfl

theorem stoch_floor_black {m : Mask} (hm : m.toNat ≤ 254) : stoch .floor l m 0 = 0 := by
  have hlevel : stochLevel l m 0 = 0 := by
    rw [stochLevel, show (0 : Channel).toNat = 0 from rfl]
    omega
  apply BitVec.eq_of_toNat_eq
  rw [toNat_stoch_floor hl, hlevel, Nat.mul_zero, Nat.zero_div]
  rfl

/-- The greatest mask lifts black by one level. -/
theorem toNat_stoch_floor_black_255 : (stoch .floor l 255 0).toNat = 255 / l := by
  rw [toNat_stoch_floor hl, stochLevel, show l * (0 : Channel).toNat + (255 : Mask).toNat = 255 from Nat.zero_add _,
    Nat.div_self (by decide), Nat.min_eq_left hl, Nat.mul_one]

/-- R140 (d): under the mask 0 the clamp does nothing, and both roundings go down. -/
theorem toNat_stoch_floor_mask0 (c : Channel) :
    (stoch .floor l 0 c).toNat = 255 * (l * c.toNat / 255) / l ∧ stoch .floor l 0 c ≤ c := by
  have hlevel : stochLevel l 0 c = l * c.toNat / 255 :=
    Nat.min_eq_left (Nat.div_le_of_le_mul (Nat.mul_comm 255 l ▸ Nat.mul_le_mul_left l (Nat.le_of_lt_succ c.isLt)))
  rw [BitVec.le_def, toNat_stoch_floor hl, hlevel]
  exact ⟨rfl, Nat.div_le_of_le_mul (Nat.mul_div_le _ _)⟩

/-- R140 (e): a greater mask gives no smaller level, and scaling back keeps the order. -/
theorem stoch_floor_mono {m m' : Mask} (h : m ≤ m') (c : Channel) : stoch .floor l m c ≤ stoch .floor l m' c := by
  have hlevel : stochLevel l m c ≤ stochLevel l m' c :=
    min_le_min_right l (Nat.div_le_div_right (Nat.add_le_add_left h _))
  rw [BitVec.le_def, toNat_stoch_floor hl, toNat_stoch_floor hl]
  exact Nat.div_le_div_right (Nat.mul_le_mul_left 255 hlevel)

/-- R140 (c): the level q comes from the channel `255 * q / L` under the mask `255 * q mod L`. -/
theorem exists_stochLevel_eq (hl256 : l ≤ 256) {q : Nat} (hq : q ≤ l) :
    ∃ (m : Mask) (c : Channel), stochLevel l m c = q := by
  have hm : 255 * q % l < 2 ^ 8 := (Nat.mod_lt _ hl).trans_le hl256
  have hc : 255 * q / l < 2 ^ 8 :=
    Nat.lt_succ_of_le (Nat.div_le_of_le_mul (Nat.mul_comm 255 l ▸ Nat.mul_le_mul_left 255 hq))
  refine ⟨BitVec.ofNat 8 (255 * q % l), BitVec.ofNat 8 (255 * q / l), ?_⟩
  rw [stochLevel, BitVec.toNat_ofNat, BitVec.toNat_ofNat, Nat.mod_eq_of_lt hm, Nat.mod_eq_of_lt hc, Nat.div_add_mod,
    Nat.mul_div_cancel_left _ (by decide), Nat.min_eq_left hq]

end Level

theorem levels_pos {l : Nat} (h : l = 32 ∨ l = 64) : 0 < l := by omega

/-- The two fractions of R137 over their common denominator. -/
theorem floor_add_mask (l c m : Nat) : ⌊(l * (c / 255) + m / 255 : ℚ)⌋ = ((l * c + m) / 255 : Nat) := by
  have hfrac : (l * (c / 255) + m / 255 : ℚ) = (l * c + m : Nat) / (255 : Nat) := by push_cast; ring
  rw [hfrac, Rat.floor_natCast_div_natCast, Int.natCast_div]

/-- Settles O39: the level scaled back, its floor, and the widths at each number of levels. -/
theorem stochasticChannelFunction : Obligations.StochasticChannelFunction := by
  intro l hlevels m c
  have hm := m.isLt
  have hc := c.isLt
  refine ⟨toNat_stoch_floor (levels_pos hlevels) m c, floor_add_mask l c.toNat m.toNat, ?_⟩
  rcases hlevels with rfl | rfl <;> omega

/-- Settles O41: the laws of R140 from the level as a number, and the mask along a row. -/
theorem stochasticChannelLaws : Obligations.StochasticChannelLaws := by
  refine ⟨fun l hlevels m c => ?_, ⟨rfl, rfl⟩, fun l hlevels q hq => ?_,
    fun y x0 _ _ m => existsUnique_column_of_mask x0 y m⟩
  · have hl := levels_pos hlevels
    have hm := m.isLt
    exact ⟨level_ne_stochLevel_iff hl m c, by omega, stoch_floor_white hl m, stoch_floor_black hl,
      toNat_stoch_floor_black_255 hl, ⟨_, stochLevel_le l m c, toNat_stoch_floor hl m c⟩,
      toNat_stoch_floor_mask0 hl c, fun m' h => stoch_floor_mono hl h c, by omega⟩
  · obtain ⟨m, c, hlevel⟩ := exists_stochLevel_eq (levels_pos hlevels) (by omega) hq
    exact ⟨m, c, by rw [toNat_stoch_floor (levels_pos hlevels), hlevel]⟩

/-! ### A whole colour, R132 -/

/-- DITH.S of this hardware answers each channel's masked level rounded down, and nothing else changes. -/
theorem exec_dithS_floor_eq_answered (v : Variant) (x y : Coord) (c : RgbColor) {s : State}
    (h : s.params.stoRound = .floor) :
    exec (.dithS v x y c) s = .next (s.answered
      (255 * stochLevel 32 (smask x y) c.r / 32 +
        255 * stochLevel (greenLevels v) (smask x y) c.g / greenLevels v * 2 ^ 8 +
        255 * stochLevel 32 (smask x y) c.b / 32 * 2 ^ 16)) := by
  rw [exec_dithS_eq_answered, h]
  rfl

/-- Under the mask 255 black is lifted by one level in each channel. -/
theorem ditherStochastic_floor_black_255 {x y : Coord} (h : (x.toNat + 237 * y.toNat) * 119 % 256 = 255) :
    ditherStochastic .floor .v15 x y ⟨0, 0, 0⟩ = ⟨7, 7, 7⟩ ∧
      ditherStochastic .floor .v16 x y ⟨0, 0, 0⟩ = ⟨7, 3, 7⟩ := by
  have hmask : smask x y = 255 := BitVec.eq_of_toNat_eq ((toNat_smask x y).trans h)
  simp only [ditherStochastic, hmask]
  decide

theorem ditherStochastic_floor_white (v : Variant) (x y : Coord) :
    ditherStochastic .floor v x y ⟨255, 255, 255⟩ = ⟨255, 255, 255⟩ := by
  simp only [ditherStochastic, stoch_floor_white (greenLevels_pos v), stoch_floor_white (show 0 < 32 by decide)]

theorem ditherStochastic_congr (round : StoRound) (v : Variant) {x y x' y' : Coord} (c : RgbColor)
    (hx : x.toNat % 256 = x'.toNat % 256) (hy : y.toNat % 256 = y'.toNat % 256) :
    ditherStochastic round v x y c = ditherStochastic round v x' y' c := by
  rw [ditherStochastic, ditherStochastic, smask_congr hx hy]

/-- Settles O34: the response as masked levels; 8 becomes 7 under the mask 0, which is no representative; the example
evaluated. -/
theorem dithSFloorsMaskedLevels : Obligations.DithSFloorsMaskedLevels := by
  refine ⟨fun x y c s hs => ⟨?_, ?_⟩, fun v x y c => decode_ofNat_of_toNat_encode (toNat_formC_dataOfColour ..),
    fun x y => ditherStochastic_floor_black_255, rfl, ditherStochastic_floor_white,
    fun l c k hlevels => lt_level_iff (levels_pos hlevels) k c, ⟨.v15, 0, 0, ⟨8, 8, 8⟩, by decide⟩,
    fun v x y x' y' c => ditherStochastic_congr .floor v c, fun s hs => ?_⟩
  · rw [exec_dithS_floor_eq_answered _ _ _ _ hs]
    simp only [stochLevel, toNat_smask, greenLevels]
  · rw [exec_dithS_floor_eq_answered _ _ _ _ hs]
    simp only [stochLevel, toNat_smask, greenLevels]
  · exact exec_dithS_floor_eq_answered .v16 2 0 ⟨200, 100, 50⟩ hs

end Sys2Proof.Machine
end

section
/-! PROOFS. The three policies beside each other (R130, R135, R141, R144): DITH.N as the identity, how far each policy
looks at the position, and what each output channel depends on. -/

namespace Sys2Proof.Machine

/-- DITH.N answers the colour itself, and nothing else changes. -/
theorem exec_dithN_eq_answered (v : Variant) (x y : Coord) (c : RgbColor) (s : State) :
    exec (.dithN v x y c) s = .next (s.answered (colourNum c)) := by
  rw [exec_eq_deliver, responseOf, dither, okResponse_eq_ofNat, toNat_dataOfColour, State.deliver, State.answered,
    colourNum]

/-- Settles O32: the identity on the colour, and the word of the encoder. -/
theorem dithNIsIdentity : Obligations.DithNIsIdentity := fun v x y c =>
  ⟨exec_dithN_eq_answered v x y c, decode_ofNat_of_toNat_encode (toNat_formC_dataOfColour ..)⟩

/-- Settles O42: the position enters by the threshold or by the mask alone. -/
theorem ditherIsPeriodic : Obligations.DitherIsPeriodic := fun prm v _ _ _ _ c =>
  ⟨ditherOrdered_congr prm.tables v c, ditherStochastic_congr prm.stoRound v c, rfl⟩

/-- R144: each policy works channel by channel, and looks at the variant for green alone. -/
theorem dither_channel_congr (prm : Params) (p : DitherPolicy) (v v' : Variant) (x y : Coord) (c c' : RgbColor) :
    (c.r = c'.r → (dither prm p v x y c).r = (dither prm p v' x y c').r) ∧
    (c.g = c'.g → (dither prm p v x y c).g = (dither prm p v x y c').g) ∧
    (c.b = c'.b → (dither prm p v x y c).b = (dither prm p v' x y c').b) := by
  cases p with
  | none => exact ⟨id, id, id⟩
  | ordered =>
    exact ⟨congrArg (ordch5 prm.tables _), congrArg (ordchGreen prm.tables v _), congrArg (ordch5 prm.tables _)⟩
  | stochastic =>
    exact ⟨congrArg (stoch prm.stoRound 32 _), congrArg (stoch prm.stoRound (greenLevels v) _),
      congrArg (stoch prm.stoRound 32 _)⟩

/-- Settles O43: the depths and the levels stand in the definitions of the two policies. -/
theorem channelsAreIndependent : Obligations.ChannelsAreIndependent :=
  ⟨fun _ _ _ _ => ⟨rfl, rfl⟩, fun _ _ _ _ => ⟨rfl, rfl⟩, dither_channel_congr⟩

end Sys2Proof.Machine
end

section
/-! PROOFS. QUANT of one pixel (R160 to R165, R170): the per-pixel function is the round trip of the dithered colour
through a packed value, and what the three policies and the file make of that. -/

namespace Sys2Proof.Machine

/-! ### The per-pixel function, R163 -/

/-- InvalidValue is the one way UNPACK fails, so the end of QUANT passes its outcome on (R164). -/
theorem quantFinish_eq_unpackValue (t : Tables) (v : Variant) (value : PackedValue) :
    quantFinish t v value = unpackValue t v value := by
  cases v with
  | v15 =>
    obtain hlegal | hreserved := Nat.lt_or_ge value.toNat 0x8000
    · rw [quantFinish, unpackValue_v15_legal t hlegal]
    · rw [quantFinish, unpackValue_v15_reserved t hreserved]
  | v16 => rfl

/-- QUANT dithers, and puts each channel through its down and up table. -/
theorem quantPix_eq_roundTrip (prm : Params) (p : DitherPolicy) (v : Variant) (x y : Coord) (c : RgbColor) :
    quantPix prm p v x y c = .ok (roundTrip prm.tables v (dither prm p v x y c)) := by
  rw [quantPix, quantFinish_eq_unpackValue, unpackValue_packValue]

theorem quantPix_eq_ok_iff {prm : Params} {p : DitherPolicy} {v : Variant} {x y : Coord} {c out : RgbColor} :
    quantPix prm p v x y c = .ok out ↔ roundTrip prm.tables v (dither prm p v x y c) = out := by
  rw [quantPix_eq_roundTrip, Except.ok.injEq]

/-- QUANT ends as its per-pixel function ends, and nothing else changes. -/
theorem exec_quantInstr (p : DitherPolicy) (v : Variant) (x y : Coord) (c : RgbColor) (s : State) :
    exec (quantInstr p v x y c) s = .next (s.respondColour (quantPix s.params p v x y c)) := by
  rw [exec_eq_deliver, responseOf_quantInstr, respondColour_eq]

theorem colourNum_eq_shifts (c : RgbColor) :
    colourNum c = c.r.toNat + c.g.toNat * 2 ^ 8 + c.b.toNat * 2 ^ 16 := by
  rw [colourNum]; omega

/-- QUANT answers the round trip of the dithered colour with status OK, and nothing else changes. -/
theorem exec_quantInstr_eq_answered (p : DitherPolicy) (v : Variant) (x y : Coord) (c : RgbColor) (s : State) :
    exec (quantInstr p v x y c) s =
      .next (s.answered (colourNum (roundTrip s.params.tables v (dither s.params p v x y c)))) := by
  rw [exec_quantInstr, quantPix_eq_roundTrip, respondColour_ok, deliver_okResponse_dataOfColour, colourNum_eq_shifts]

/-- The word of a QUANT command is the sum of its fields, with the policy in POL (R61, R63). -/
theorem decode_quant_commandNum (p : DitherPolicy) (v : Variant) (x y : Coord) (c : RgbColor) :
    decode (BitVec.ofNat 64 (commandNum 4 p.code.toNat v.num y.toNat x.toNat (colourNum c))) =
      .ok (quantInstr p v x y c) := by
  refine decode_ofNat_of_toNat_encode ?_
  cases p with
  | none => exact toNat_formC_dataOfColour ..
  | ordered => exact toNat_formC_dataOfColour ..
  | stochastic => exact toNat_formC_dataOfColour ..

/-- Settles O47: the colour is the round trip of the dithered one. -/
theorem quantCompletesForEveryBuild : Obligations.QuantCompletesForEveryBuild := fun p v x y c s =>
  ⟨_, quantPix_eq_roundTrip s.params p v x y c, exec_quantInstr_eq_answered p v x y c s⟩

/-! ### The failure branch, R164 -/

/-- A QUANT command is answered with status OK, so with no error. -/
theorem exec_quantInstr_ne_invalidValue (p : DitherPolicy) (v : Variant) (x y : Coord) (c : RgbColor) (s : State) :
    exec (quantInstr p v x y c) s ≠ .next (s.answered 0x10000000) := by
  rw [exec_quantInstr, quantPix_eq_roundTrip, respondColour_ok]
  intro h
  have hword := List.append_cancel_left (congrArg State.responses (Host.Outcome.next.inj h))
  have hstatus := congrArg Response.statusField (List.singleton_inj.mp hword)
  rw [okResponse, formR_statusField] at hstatus
  exact absurd hstatus (by decide)

/-- Settles O48: the end of QUANT is that of UNPACK, which refuses a value of 0x8000 or more, and no packed one. -/
theorem quantFailureIsHandledAndDead : Obligations.QuantFailureIsHandledAndDead := by
  refine ⟨exec_quantInstr, fun s value h => ?_, fun t v value => ?_, exec_quantInstr_ne_invalidValue⟩
  · rw [quantFinish_eq_unpackValue, unpackValue_v15_reserved _ h, respondColour_error, errorResponse_eq_ofNat]
    rfl
  · rw [quantFinish_eq_unpackValue]

/-! ### QUANT.N, R160 and R165 -/

theorem roundTrip_default_black_white (v : Variant) :
    roundTrip defaultTables v ⟨0, 0, 0⟩ = ⟨0, 0, 0⟩ ∧
      roundTrip defaultTables v ⟨255, 255, 255⟩ = ⟨255, 255, 255⟩ := by
  cases v <;> decide

theorem exec_quantN_eq_answered (v : Variant) (x y : Coord) (c : RgbColor) (s : State) :
    exec (.quantN v x y c) s = .next (s.answered (colourNum (roundTrip s.params.tables v c))) :=
  exec_quantInstr_eq_answered .none v x y c s

/-- A colour that the round trip keeps is returned unchanged, at any position. -/
theorem exec_quantN_of_roundTrip {v : Variant} {x y : Coord} {c : RgbColor} {s : State}
    (h : roundTrip s.params.tables v c = c) : exec (.quantN v x y c) s = .next (s.answered (colourNum c)) := by
  rw [exec_quantN_eq_answered, h]

/-- Settles O44: the response as a round trip, which keeps a colour of representatives; the fixed colours evaluated. -/
theorem quantNRoundsEachChannel : Obligations.QuantNRoundsEachChannel := by
  refine ⟨fun x y c s => ⟨?_, ?_⟩, decode_quant_commandNum .none, fun v x y s r b g5 g6 ht => ?_,
    fun s hs => ⟨fun v x y => ⟨?_, ?_⟩, ?_, ?_⟩⟩
  · rw [exec_quantN_eq_answered, colourNum_eq_shifts, roundTrip]
  · rw [exec_quantN_eq_answered, colourNum_eq_shifts, roundTrip]
  · refine exec_quantN_of_roundTrip ((roundTrip_eq_self_iff ht v _).mpr ⟨⟨r, rfl⟩, ?_, ⟨b, rfl⟩⟩)
    cases v with
    | v15 => exact ⟨g5, rfl⟩
    | v16 => exact ⟨g6, rfl⟩
  · rw [exec_quantN_eq_answered, hs, (roundTrip_default_black_white v).1]; rfl
  · rw [exec_quantN_eq_answered, hs, (roundTrip_default_black_white v).2]; rfl
  · rw [exec_quantN_eq_answered, hs]; rfl
  · rw [exec_quantN_eq_answered, hs]; rfl

/-- Settles O49: a second round trip keeps the colour; green 100 becomes 101 under Variant16, which is moved under
Variant15. -/
theorem quantNIsFixedPoint : Obligations.QuantNIsFixedPoint := by
  refine ⟨fun prm v x y x' y' c out ht h => ?_, by decide, ⟨0, 100, 0⟩, ⟨0, 101, 0⟩, ⟨0, 99, 0⟩, by decide, by decide,
    by decide⟩
  rw [quantPix_eq_ok_iff] at h ⊢
  rw [← h]
  exact roundTrip_roundTrip ht v c

/-! ### QUANT.O, R161 -/

theorem exec_quantO_eq_answered (v : Variant) (x y : Coord) (c : RgbColor) (s : State) :
    exec (.quantO v x y c) s =
      .next (s.answered (colourNum (roundTrip s.params.tables v (ditherOrdered s.params.tables v x y c)))) :=
  exec_quantInstr_eq_answered .ordered v x y c s

/-- The ordered dither is made of representatives, so QUANT.O answers what DITH.O answers. -/
theorem exec_quantO_eq_dithO {s : State} (ht : s.params.tables.Lawful) (v : Variant) (x y : Coord) (c : RgbColor) :
    exec (.quantO v x y c) s = exec (.dithO v x y c) s := by
  rw [exec_quantO_eq_answered, roundTrip_ditherOrdered ht, exec_dithO_eq_answered, colourNum_eq_shifts, ditherOrdered]

/-- Settles O45: the response by the definitions of R133 and R134; at (0,0), 9 becomes 8 and 8 becomes 0. -/
theorem quantOAnswersAsDithO : Obligations.QuantOAnswersAsDithO := by
  refine ⟨fun x y c s => ⟨?_, ?_⟩, decode_quant_commandNum .ordered,
    fun v x y c s ht => exec_quantO_eq_dithO ht v x y c,
    fun s hs => ⟨⟨0, 0, ⟨9, 9, 9⟩, ⟨8, 8, 8⟩, ⟨0, 0, 0⟩, ?_, ?_, by decide⟩, ⟨1, ?_⟩, ?_, ?_⟩⟩
  · rw [exec_quantO_eq_answered, colourNum_eq_shifts]; rfl
  · rw [exec_quantO_eq_answered, colourNum_eq_shifts]; rfl
  · rw [quantPix_eq_ok_iff, dither, hs]; decide
  · rw [quantPix_eq_ok_iff, dither, hs]; decide
  · rw [hs]; decide
  · rw [exec_quantO_eq_answered, hs]; rfl
  · rw [exec_quantO_eq_answered, hs]; rfl

/-! ### QUANT.S, R162 -/

theorem exec_quantS_floor_eq_answered (v : Variant) (x y : Coord) (c : RgbColor) {s : State}
    (h : s.params.stoRound = .floor) :
    exec (.quantS v x y c) s =
      .next (s.answered (colourNum (roundTrip s.params.tables v (ditherStochastic .floor v x y c)))) := by
  rw [← h]
  exact exec_quantInstr_eq_answered .stochastic v x y c s

/-- The stochastic channel function of this hardware at a position, in the arithmetic of R136 and R137. -/
theorem stoch_floor_smask (l : Nat) (x y : Coord) (c : Channel) :
    stoch .floor l (smask x y) c =
      BitVec.ofNat 8 (255 * min ((l * c.toNat + (x.toNat + 237 * y.toNat) * 119 % 256) / 255) l / l) := by
  rw [stoch, scaleBack, stochLevel, toNat_smask]

/-- Settles O46: the response by R136 and R137; where the mask is 255, as at (204,1), 0 becomes 8 and 8 becomes 16. -/
theorem quantSRoundsDithS : Obligations.QuantSRoundsDithS := by
  refine ⟨fun x y c s hs => ⟨?_, ?_⟩, decode_quant_commandNum .stochastic, fun s hs => ?_⟩
  · rw [exec_quantS_floor_eq_answered _ _ _ _ hs, colourNum_eq_shifts]
    simp only [roundTrip, ditherStochastic, stoch_floor_smask, greenLevels]
  · rw [exec_quantS_floor_eq_answered _ _ _ _ hs, colourNum_eq_shifts]
    simp only [roundTrip, ditherStochastic, stoch_floor_smask, greenLevels]
  · have hfloor : s.params.stoRound = .floor := by rw [hs]; rfl
    refine ⟨fun x y hm => ⟨?_, ?_⟩, ⟨204, 1, ⟨0, 0, 0⟩, ⟨8, 8, 8⟩, ⟨16, 16, 16⟩, ?_, ?_, by decide⟩, ?_⟩
    · rw [exec_quantS_floor_eq_answered _ _ _ _ hfloor, (ditherStochastic_floor_black_255 hm).1, hs]; rfl
    · rw [exec_quantS_floor_eq_answered _ _ _ _ hfloor, (ditherStochastic_floor_black_255 hm).2, hs]; rfl
    · rw [quantPix_eq_ok_iff, hs]; decide
    · rw [quantPix_eq_ok_iff, hs]; decide
    · rw [exec_quantS_floor_eq_answered _ _ _ _ hfloor, hs]; rfl

/-! ### The quantized pixel in a file, R170 and R44 -/

/-- The two bytes of a packed value as numbers (R44). -/
theorem fileBytes_toNat (value : PackedValue) :
    (value.extractLsb' 0 8).toNat = value.toNat % 256 ∧ (value.extractLsb' 8 8).toNat = value.toNat / 256 := by
  have hvalue := value.isLt
  simp only [BitVec.extractLsb'_toNat, Nat.shiftRight_eq_div_pow]
  omega

theorem toNat_ofFileBytes (lo hi : BitVec 8) : (ofFileBytes lo hi).toNat = hi.toNat * 2 ^ 8 + lo.toNat :=
  toNat_append_add hi lo

/-- Settles O50: a quantized pixel is what UNPACK makes of the packed dither, so PACK gives that value back. -/
theorem fileHoldsTheQuantizedPixel : Obligations.FileHoldsTheQuantizedPixel := by
  refine ⟨fun prm p v x y c out ht h => ?_, fun value => ?_, by decide⟩
  · rw [quantPix, quantFinish_eq_unpackValue] at h
    rw [packValue_of_unpackValue ht h]
    exact ⟨rfl, h⟩
  · obtain ⟨hlo, hhi⟩ := fileBytes_toNat value
    refine ⟨_, _, rfl, hlo, hhi, BitVec.eq_of_toNat_eq ?_⟩
    rw [toNat_ofFileBytes, hlo, hhi]
    omega

end Sys2Proof.Machine
end

section
/-! PROOFS. QIMG on the whole machine (R166, R167, R169): where the sequence stands after k pixels, the three steps of
a pixel, and the run to the end; the order of the pixels, the empty image, and an error response. -/

namespace Sys2Proof.Machine

/-! ### Where a sequence stands -/

/-- The sequence that stands at element k: row-major order (R41, R166). -/
def runAt (p : DitherPolicy) (im : ImageMetadata) (k : Nat) : QimgRun :=
  { policy := p, image := im, x := k % im.width.toNat, y := k / im.width.toNat }

section Position
variable {p : DitherPolicy} {im : ImageMetadata} {k : Nat}

theorem runIndex_runAt : runIndex (runAt p im k) = k :=
  Nat.div_add_mod' k im.width.toNat

/-- The host issues the command of the element the sequence stands at. -/
theorem runCommand_runAt (c : RgbColor) : runCommand (runAt p im k) c = encode (pixelInstr p im k c) := rfl

/-- The loops go on as long as there is an element to quantize. -/
theorem runDone_runAt_eq_false : runDone (runAt p im k) = false ↔ k < im.width.toNat * im.height.toNat := by
  rw [runDone_eq_false, runAt, Ne, ← BitVec.toNat_inj]
  constructor
  · rintro ⟨hw, hy⟩
    rw [Nat.mul_comm]
    exact Nat.lt_mul_of_div_lt hy (Nat.pos_of_ne_zero hw)
  · exact fun h => ⟨(Nat.pos_of_lt_mul_right h).ne', Nat.div_lt_of_lt_mul h⟩

theorem runDone_runAt_eq_true : runDone (runAt p im k) = true ↔ im.width.toNat * im.height.toNat ≤ k := by
  rw [← Bool.not_eq_false, runDone_runAt_eq_false, Nat.not_lt]

/-- The next pair of loop variables is that of the next element: in the same row, or at the start of the next. -/
theorem runAdvance_runAt (hw : 0 < im.width.toNat) : runAdvance (runAt p im k) = runAt p im (k + 1) := by
  have hk : k % im.width.toNat + im.width.toNat * (k / im.width.toNat) = k := Nat.mod_add_div ..
  by_cases hx : k % im.width.toNat + 1 < im.width.toNat
  · obtain ⟨hrow, hcol⟩ : (k + 1) / im.width.toNat = k / im.width.toNat ∧
        (k + 1) % im.width.toNat = k % im.width.toNat + 1 :=
      (Nat.div_mod_unique hw).mpr ⟨by omega, hx⟩
    simp [runAdvance, runAt, hx, hrow, hcol]
  · have hlast : k % im.width.toNat + 1 = im.width.toNat :=
      Nat.le_antisymm (Nat.mod_lt k hw) (Nat.not_lt.mp hx)
    obtain ⟨hrow, hcol⟩ : (k + 1) / im.width.toNat = k / im.width.toNat + 1 ∧ (k + 1) % im.width.toNat = 0 :=
      (Nat.div_mod_unique hw).mpr ⟨by rw [Nat.mul_succ]; omega, hw⟩
    simp [runAdvance, runAt, hx, hrow, hcol]

end Position

/-- The host may start QIMG when nothing is open on the port, and the sequence then stands at element 0. -/
theorem of_startQimg_eq_some {s s0 : State} {p : DitherPolicy} {im : ImageMetadata} (h : s.startQimg p im = some s0) :
    s.buffer.length = im.width.toNat * im.height.toNat ∧ s.pending = [] ∧ s.responses = [] ∧
      s0 = { s with phase := .issuing (runAt p im 0) } := by
  unfold State.startQimg at h
  split at h
  · next hready =>
    cases h
    simp only [State.readyFor, Bool.and_eq_true, decide_eq_true_eq, List.isEmpty_iff] at hready
    obtain ⟨⟨⟨hlen, hpend⟩, hresp⟩, -⟩ := hready
    exact ⟨hlen, hpend, hresp, by simp [runAt]⟩
  · cases h

/-! ### One pixel, R166 -/

section Pixel
variable {prm : Params} {p : DitherPolicy} {im : ImageMetadata} {i : Nat} {v : Variant} {x y : Coord} {c out : RgbColor}

theorem pixelResponse_of_quantPix (hi : pixelInstr p im i c = quantInstr p v x y c)
    (h : quantPix prm p v x y c = .ok out) : pixelResponse prm p im i c = okResponse (dataOfColour out) := by
  rw [pixelResponse, hi, responseTo_ok (decode_encode _), responseOf_quantInstr, h, responseOf.colourResponse]

/-- What the host writes back to an element is its colour quantized with its own coordinates. -/
theorem quantPix_eq_pixelResult (hi : pixelInstr p im i c = quantInstr p v x y c) :
    quantPix prm p v x y c = .ok (pixelResult prm p im i c) := by
  obtain ⟨out, h⟩ := quantPix_ok prm p v x y c
  rw [h, pixelResult, pixelResponse_of_quantPix hi h, okResponse, formR_dataField, colourOfData_dataOfColour]

theorem pixelResponse_eq_okResponse :
    pixelResponse prm p im i c = okResponse (dataOfColour (pixelResult prm p im i c)) :=
  pixelResponse_of_quantPix rfl (quantPix_eq_pixelResult rfl)

end Pixel

/-! ### A run of QIMG, R166 -/

/-- The state s in the middle of a QIMG sequence: it stands at element k, and the buffer is `buf`. -/
def State.atPixel (s : State) (p : DitherPolicy) (im : ImageMetadata) (k : Nat) (buf : List RgbColor) : State :=
  { s with phase := .issuing (runAt p im k), buffer := buf }

/-- The same with the transaction of element k open: these words wait on the command port and the response port. -/
def State.midPixel (s : State) (p : DitherPolicy) (im : ImageMetadata) (k : Nat) (buf : List RgbColor)
    (pending : List Command) (responses : List Response) : State :=
  { s with phase := .waiting (runAt p im k), buffer := buf, pending := pending, responses := responses }

section Run
variable {s : State} {p : DitherPolicy} {im : ImageMetadata} {k : Nat} {buf : List RgbColor} {c : RgbColor}

theorem step_atPixel_done (hpend : s.pending = []) (hk : im.width.toNat * im.height.toNat ≤ k) :
    step (s.atPixel p im k buf) = .next { s with phase := .finished, buffer := buf } := by
  rw [step_issuing (s := s.atPixel p im k buf) hpend rfl, hostIssue_done (runDone_runAt_eq_true.mpr hk)]
  rfl

/-- The host gives the command of its element. -/
theorem step_atPixel_issues (hpend : s.pending = []) (hresp : s.responses = [])
    (hk : k < im.width.toNat * im.height.toNat) (hc : buf[k]? = some c) :
    step (s.atPixel p im k buf) = .next (s.midPixel p im k buf [encode (pixelInstr p im k c)] []) := by
  have helement : (s.atPixel p im k buf).buffer[runIndex (runAt p im k)]? = some c := by rwa [runIndex_runAt]
  rw [step_issuing (s := s.atPixel p im k buf) hpend rfl,
    hostIssue_element (runDone_runAt_eq_false.mpr hk) helement, runCommand_runAt]
  simp [State.atPixel, State.midPixel, State.issue, hpend, hresp]

/-- The block answers the command of the element. -/
theorem step_midPixel_answers :
    step (s.midPixel p im k buf [encode (pixelInstr p im k c)] []) =
      .next (s.midPixel p im k buf [] [okResponse (dataOfColour (pixelResult s.params p im k c))]) := by
  rw [step_answers rfl, ← pixelResponse_eq_okResponse]
  rfl

/-- The host writes the colour to its element and goes on to the next. -/
theorem step_midPixel_collects (hpend : s.pending = []) (hresp : s.responses = []) (hw : 0 < im.width.toNat) :
    step (s.midPixel p im k buf [] [okResponse (dataOfColour c)]) =
      .next (s.atPixel p im (k + 1) (buf.set k c)) := by
  rw [step_waiting (s := s.midPixel p im k buf [] _) rfl rfl, hostCollect_okResponse rfl, runIndex_runAt,
    runAdvance_runAt hw, colourOfData_dataOfColour, State.atPixel, hpend, hresp]
  rfl

/-- A pixel takes three steps, and its element is then quantized. -/
theorem stepMany_pixel (hpend : s.pending = []) (hresp : s.responses = [])
    (hk : k < im.width.toNat * im.height.toNat) (hc : buf[k]? = some c) (n : Nat) :
    stepMany (n + 3) (s.atPixel p im k buf) =
      stepMany n (s.atPixel p im (k + 1) (buf.set k (pixelResult s.params p im k c))) := by
  rw [stepMany_succ (step_atPixel_issues hpend hresp hk hc), stepMany_succ step_midPixel_answers,
    stepMany_succ (step_midPixel_collects hpend hresp (Nat.pos_of_lt_mul_right hk))]

/-- The n elements from k to the end are quantized in 3*n steps, and one more step returns Ok. -/
theorem stepMany_atPixel {old : List RgbColor} {n : Nat} (hpend : s.pending = []) (hresp : s.responses = [])
    (hn : k + n = im.width.toNat * im.height.toNat)
    (h : HalfDone (pixelResult s.params p im) old (List.range' k n) buf) :
    stepMany (3 * n + 1) (s.atPixel p im k buf) =
      some { s with phase := .finished, buffer := old.mapIdx (pixelResult s.params p im) } := by
  induction n generalizing k buf with
  | zero =>
    have hdone : im.width.toNat * im.height.toNat ≤ k := Nat.le_of_eq hn.symm
    rw [Nat.mul_zero, stepMany_succ (step_atPixel_done hpend hdone), h.finish, stepMany]
  | succ n ih =>
    rw [List.range'_succ] at h
    obtain ⟨c, hbuf, hold⟩ := h.read List.mem_cons_self
    rw [show 3 * (n + 1) + 1 = 3 * n + 1 + 3 by omega, stepMany_pixel hpend hresp (by omega) hbuf]
    exact ih (by omega) (h.write hold)

end Run

/-- Settles O51: a run over all the elements from element 0, which makes of each what QIMG makes of it. -/
theorem qimgQuantizesTheImage : Obligations.QimgQuantizesTheImage := by
  intro s s0 p im h
  obtain ⟨hlen, hpend, hresp, rfl⟩ := of_startQimg_eq_some h
  have hstart : HalfDone (pixelResult s.params p im) s.buffer
      (List.range' 0 (im.width.toNat * im.height.toNat)) s.buffer := by
    rw [← List.range_eq_range', ← hlen]
    exact HalfDone.start (List.Perm.refl _)
  refine ⟨s.buffer.mapIdx (pixelResult s.params p im), stepMany_atPixel hpend hresp (Nat.zero_add _) hstart,
    qimg_eq_mapIdx hlen, List.length_mapIdx, fun x y hx hy => ?_⟩
  have hlt : elementIndex im.width.toNat x y < s.buffer.length := hlen ▸ elementIndex_lt hx hy
  have hget : s.buffer[elementIndex im.width.toNat x y]? = some s.buffer[elementIndex im.width.toNat x y] :=
    List.getElem?_eq_getElem hlt
  refine ⟨_, _, hget, ?_, quantPix_eq_pixelResult (pixelInstr_elementIndex p im y hx _)⟩
  rw [← elementIndex, List.getElem?_mapIdx, hget, Option.map_some]

/-- Settles O52: with no element the loops are over at the start. -/
theorem emptyImageIssuesNothing : Obligations.EmptyImageIssuesNothing := by
  intro s s0 p im hempty h
  obtain ⟨hlen, hpend, -, rfl⟩ := of_startQimg_eq_some h
  have hnone : im.width.toNat * im.height.toNat = 0 := by
    obtain hw | hh := hempty
    · rw [hw]; exact Nat.zero_mul _
    · rw [hh]; exact Nat.mul_zero _
  refine ⟨step_atPixel_done hpend (Nat.le_of_eq hnone), List.length_eq_zero_iff.mp (hlen.trans hnone), ?_⟩
  rw [expandQimg, hnone]
  rfl

/-- Settles O53: any order of all the elements finishes the buffer as row-major order does. -/
theorem pixelOrderDoesNotMatter : Obligations.PixelOrderDoesNotMatter := by
  intro prm p im order buf hlen hperm
  rw [qimg_eq_mapIdx hlen]
  exact qimgInOrder_of_halfDone (HalfDone.start (hlen ▸ hperm))

/-! ### An error response, R169 -/

theorem hostCollect_error {q : QimgRun} {s : State} {r : Response} {rest : List Response}
    (h : s.responses = r :: rest) (hr : Response.statusField r ≠ statusOk) :
    hostCollect q s = .next ({ s with responses := rest }.failQimg (Response.statusField r)) := by
  rw [hostCollect, takeResponse_eq_some.mpr ⟨rest, h, rfl⟩]
  exact if_neg hr

/-- Settles O56: the failed state is that of `failQimg`, which keeps the length of the buffer. -/
theorem failedQimgReturnsStatus : Obligations.FailedQimgReturnsStatus := by
  intro s q r rest hpend hphase hresp hstatus
  exact ⟨_, _, State.failQimg_buffer_length { s with responses := rest } (Response.statusField r),
    (step_waiting hpend hphase).trans (hostCollect_error hresp hstatus)⟩

end Sys2Proof.Machine
end

section
/-! PROOFS. The errors (R180 to R188): the status in a response, which operation raises what, decode errors before
InvalidValue, and what an error leaves behind: its one response. -/

namespace Sys2Proof.Machine

/-! ### The status in a response -/

@[simp] theorem statusField_okResponse (d : Data) : Response.statusField (okResponse d) = 0 :=
  formR_statusField statusOk d

@[simp] theorem statusField_errorResponse (e : ErrorKind) : Response.statusField (errorResponse e) = e.status :=
  formR_statusField e.status 0

theorem raise_eq_answered (s : State) (e : ErrorKind) : s.raise e = s.answered (e.status.toNat * 2 ^ 28) := by
  rw [raise_eq, errorResponse_eq_ofNat, State.deliver, State.answered]

/-! ### Which operation raises what, R183 -/

/-- The operations that InvalidValue comes from: UNPACK under Variant15 of a value with the reserved bit set (R180). -/
def RaisesInvalidValue (i : Instr) : Prop := ∃ p : PackedValue, i = .unpack .v15 p ∧ 0x8000 ≤ p.toNat

theorem responseOf_of_raises {i : Instr} (h : RaisesInvalidValue i) (prm : Params) :
    responseOf prm i = errorResponse .invalidValue := by
  obtain ⟨p, rfl, hp⟩ := h
  rw [responseOf, unpackValue_v15_reserved _ hp, responseOf.colourResponse]

/-- UNPACK is the one operation that can raise it: QUANT unpacks only what it has packed itself (R164), and the
others have no error branch. -/
theorem exists_okResponse_of_not_raises {i : Instr} (h : ¬ RaisesInvalidValue i) (prm : Params) :
    ∃ d, responseOf prm i = okResponse d := by
  cases i with
  | unpack v p =>
    cases v with
    | v15 =>
      have hp : p.toNat < 0x8000 := Nat.not_le.mp fun hp => h ⟨p, rfl, hp⟩
      exact ⟨_, by rw [responseOf, unpackValue_v15_legal _ hp, responseOf.colourResponse]⟩
    | v16 => exact ⟨_, rfl⟩
  | quantN | quantO | quantS => exact ⟨_, by rw [responseOf, quantPix_eq_roundTrip, responseOf.colourResponse]⟩
  | pack | dithN | dithO | dithS | scd5 | scd6 | scu5 | scu6 => exact ⟨_, rfl⟩

theorem statusField_responseOf_eq_one_iff (prm : Params) (i : Instr) :
    Response.statusField (responseOf prm i) = 1 ↔ RaisesInvalidValue i := by
  constructor
  · intro hone
    by_contra h
    obtain ⟨d, hd⟩ := exists_okResponse_of_not_raises h prm
    rw [hd, statusField_okResponse] at hone
    exact absurd hone (by decide)
  · intro h
    rw [responseOf_of_raises h, statusField_errorResponse]
    rfl

/-- Settles O14: an operation that raises InvalidValue has ST 1, any other has ST 0, and a word of no operation has
ST 2. -/
theorem whichOperationRaisesWhat : Obligations.WhichOperationRaisesWhat := by
  refine ⟨fun i s => ⟨_, exec_eq_deliver i s, statusField_responseOf_eq_one_iff s.params i, fun hne => ?_⟩,
    fun w s hnone => ?_⟩
  · have hnot : ¬ RaisesInvalidValue i := mt (statusField_responseOf_eq_one_iff s.params i).mpr hne
    obtain ⟨d, hd⟩ := exists_okResponse_of_not_raises hnot s.params
    rw [hd, statusField_okResponse]
  · have hillegal : decode w = .error .illegalCommand :=
      (decodingIsTotal w).1.resolve_left fun ⟨i, hi⟩ => hnone i hi
    exact ⟨_, transaction_error hillegal s, statusField_errorResponse .illegalCommand⟩

/-! ### Error entry, R187 -/

/-- A command is answered with a result or with an error, and never with both. -/
theorem responseTo_ok_or_error (prm : Params) (w : Command) :
    (∃ d, responseTo prm w = okResponse d) ∨ ∃ e, responseTo prm w = errorResponse e := by
  cases hw : decode w with
  | error e => exact .inr ⟨e, responseTo_error hw prm⟩
  | ok i =>
    rw [responseTo_ok hw]
    by_cases h : RaisesInvalidValue i
    · exact .inr ⟨_, responseOf_of_raises h prm⟩
    · exact .inl (exists_okResponse_of_not_raises h prm)

theorem errorResponse_eq_or_eq (e : ErrorKind) : errorResponse e = 0x10000000 ∨ errorResponse e = 0x20000000 := by
  cases e with
  | invalidValue => exact .inl (errorResponse_eq_ofNat _)
  | illegalCommand => exact .inr (errorResponse_eq_ofNat _)

/-- Settles O13: the step delivers the response to the oldest word, which is an error's when its ST is not 0. -/
theorem errorEntryIsOneResponse : Obligations.ErrorEntryIsOneResponse := by
  refine ⟨fun s e => ?_, fun s w rest t r hp hstep hresp hst => ?_⟩
  · cases e with
    | invalidValue => exact raise_eq_answered s .invalidValue
    | illegalCommand => exact raise_eq_answered s .illegalCommand
  · rw [step_answers hp] at hstep
    cases hstep
    obtain rfl : responseTo s.params w = r := List.singleton_inj.mp (List.append_cancel_left hresp)
    refine ⟨?_, rfl⟩
    obtain ⟨d, hd⟩ | ⟨e, he⟩ := responseTo_ok_or_error s.params w
    · exact absurd (hd ▸ statusField_okResponse d) hst
    · exact he ▸ errorResponse_eq_or_eq e

/-! ### Decode errors come first, R186 -/

theorem transaction_illegal {w : Command} (h : decode w = .error .illegalCommand) (s : State) :
    transaction w s = .next (s.answered 0x20000000) :=
  (transaction_error h s).trans (congrArg Host.Outcome.next (raise_eq_answered s .illegalCommand))

/-- The word of UNPACK under Variant15 holds OP and the value, and is zero elsewhere (R61, R66). -/
theorem decode_unpack_v15_word {p : Nat} (hp : p < 0x10000) :
    decode (BitVec.ofNat 64 (2 * 2 ^ 60 + p)) = .ok (.unpack .v15 (BitVec.ofNat 16 p)) := by
  have hword : commandNum 2 0 Variant.v15.num 0 0 (BitVec.ofNat 16 p).toNat = 2 * 2 ^ 60 + p := by
    rw [commandNum, Variant.num, BitVec.toNat_ofNat, Nat.mod_eq_of_lt hp]
    omega
  rw [← hword]
  exact unpackAnswersColour.2.1 .v15 (BitVec.ofNat 16 p)

/-- A stray bit between the value of an UNPACK word and OP lies in a field that UNPACK does not use, unless it is the
variant bit; whichever field that is, R71 lists the case. -/
theorem decode_unpack_stray {p stray : Nat} (hp : p < 0x10000) (hlow : 16 ≤ stray) (hhigh : stray < 60)
    (hvariant : stray ≠ 57) : decode (BitVec.ofNat 64 (2 * 2 ^ 60 + p + 2 ^ stray)) = .error .illegalCommand := by
  have hbit57 : 2 ^ stray / 2 ^ 57 % 2 ≠ 1 := by
    have h := Nat.testBit_two_pow_of_ne hvariant
    rwa [Nat.testBit_eq_decide_div_mod_eq, decide_eq_false_iff_not] at h
  have hdvd : 2 ^ 16 ∣ 2 ^ stray := Nat.pow_dvd_pow 2 hlow
  have hlt : 2 ^ stray < 2 ^ 60 := Nat.pow_lt_pow_right (by decide) hhigh
  have hpos : 0 < 2 ^ stray := Nat.two_pow_pos stray
  generalize 2 ^ stray = bit at *
  have hword : (BitVec.ofNat 64 (2 * 2 ^ 60 + p + bit)).toNat = 2 * 2 ^ 60 + p + bit := by
    rw [BitVec.toNat_ofNat]; omega
  refine (illegalWordsAreExactlyTheListed _).1.mpr ?_
  rw [hword]
  have hop : (2 * 2 ^ 60 + p + bit) / 2 ^ 60 = 2 := by omega
  have hv : (2 * 2 ^ 60 + p + bit) / 2 ^ 57 % 2 = 0 := by omega
  have habove : (2 * 2 ^ 60 + p + bit) / 2 ^ 16 % 2 ^ (60 - 16) ≠ 0 := by omega
  rcases field_ne_zero_of_bits_above (by decide) habove with hz | (hpol | hv' | hyx) | hdata
  · exact .inr (.inr (.inl hz))
  · exact .inr (.inr (.inr (.inl ⟨.inr hop, .inl hpol⟩)))
  · exact absurd hv hv'
  · exact .inr (.inr (.inr (.inl ⟨.inr hop, .inr hyx⟩)))
  · exact .inr (.inr (.inr (.inr (.inr (.inl ⟨hop, hdata⟩)))))

/-- Settles O15: a value is looked at only once its word has decoded. -/
theorem decodeErrorsComeFirst : Obligations.DecodeErrorsComeFirst := by
  refine ⟨fun w s hnone => transaction_illegal ((decodingIsTotal w).2.2 hnone) s, fun p s hreserved hp =>
    ⟨?_, fun stray hlow hhigh hvariant => transaction_illegal (decode_unpack_stray hp hlow hhigh hvariant) s⟩⟩
  rw [transaction_ok (decode_unpack_v15_word hp)]
  refine exec_unpack_v15_reserved ?_ s
  rwa [BitVec.toNat_ofNat, Nat.mod_eq_of_lt hp]

/-! ### After an error, R185 and R188 -/

/-- Two steps answer the two oldest commands, each with the response to its own word, and nothing else changes. -/
theorem stepMany_two_answers {s : State} {w w' : Command} {rest : List Command} (h : s.pending = w :: w' :: rest) :
    stepMany 2 s = some { s with
      pending := rest, responses := s.responses ++ [responseTo s.params w, responseTo s.params w'] } := by
  rw [stepMany_succ (step_answers h), stepMany_succ (step_answers rfl), List.append_assoc]
  rfl

/-- Settles O19: each of the two responses is that of `responseTo`, which does not look at the state. -/
theorem errorsLeaveNothingBehind : Obligations.ErrorsLeaveNothingBehind := by
  intro s w w' rest r hp hr _
  rw [transact_eq_responseTo, Option.some.injEq] at hr
  subst hr
  exact ⟨_, transact_eq_responseTo s.params w', fun hsame => hsame ▸ rfl, stepMany_two_answers hp⟩

/-- Settles O20: the host moves of itself only during a sequence. -/
theorem nothingHappensUnasked : Obligations.NothingHappensUnasked := fun _ => step_atRest

end Sys2Proof.Machine
end

section
/-! PROOFS. Several copies of the block (R52, R194): a step of one reaches no other. -/

namespace Sys2Proof.Machine

/-- A step of copy j leaves every other copy as it is. -/
theorem Replicas.stepCopy_getElem?_of_ne {r r' : Replicas} {j k : Nat} (h : r.stepCopy j = some r') (hk : k ≠ j) :
    r'.copies[k]? = r.copies[k]? := by
  obtain ⟨s, s', -, -, rfl⟩ := Replicas.stepCopy_eq_some.mp h
  exact List.getElem?_set_ne hk.symm

theorem Replicas.stepCopy_length {r r' : Replicas} {j : Nat} (h : r.stepCopy j = some r') :
    r'.copies.length = r.copies.length := by
  obtain ⟨s, s', -, -, rfl⟩ := Replicas.stepCopy_eq_some.mp h
  exact List.length_set

/-- Steps of two copies commute: each finds its own copy as it was before the other's step. -/
theorem Replicas.stepCopy_comm {r r' r'' : Replicas} {j k : Nat} (hk : k ≠ j) (hj : r.stepCopy j = some r')
    (hjk : r'.stepCopy k = some r'') : ∃ mid, r.stepCopy k = some mid ∧ mid.stepCopy j = some r'' := by
  have hunchanged := Replicas.stepCopy_getElem?_of_ne hj hk
  obtain ⟨sj, tj, hsj, hstepj, rfl⟩ := Replicas.stepCopy_eq_some.mp hj
  obtain ⟨sk, tk, hsk, hstepk, rfl⟩ := Replicas.stepCopy_eq_some.mp hjk
  have hmid : r.stepCopy k = some { copies := r.copies.set k tk } :=
    Replicas.stepCopy_eq_some.mpr ⟨sk, tk, hunchanged ▸ hsk, hstepk, rfl⟩
  refine ⟨_, hmid, Replicas.stepCopy_eq_some.mpr ⟨sj, tj, ?_, hstepj, ?_⟩⟩
  · rw [Replicas.stepCopy_getElem?_of_ne hmid hk.symm, hsj]
  · rw [List.set_comm _ _ hk]

/-- Settles O55. -/
theorem copiesAreIndependent : Obligations.CopiesAreIndependent := fun _ _ _ hj =>
  ⟨Replicas.stepCopy_length hj, fun _ => Replicas.stepCopy_getElem?_of_ne hj,
    fun _ _ hk => Replicas.stepCopy_comm hk hj⟩

end Sys2Proof.Machine
end

section
/-! PROOFS. Safety after reset (R33, R210): a machine just built is safe whenever its tables are lawful, and the state
after reset is the one built with the tables of this hardware (R26). -/

namespace Sys2Proof.Machine

theorem hostCoherent_idle {s : State} (h : s.phase = .idle) : s.HostCoherent := by
  rw [State.HostCoherent, h]
  trivial

/-- Nothing is delivered and no sequence has started, so the tables are all that a built machine must answer for. -/
theorem State.built_inv {p : Params} (h : p.tables.Lawful) : (State.built p).Inv where
  tables := h
  responses r hr := by
    rw [State.built_responses] at hr
    exact absurd hr List.not_mem_nil
  host := hostCoherent_idle (State.built_phase p)

theorem State.reset_inv : State.reset.Inv := by
  rw [State.reset_eq_built]
  exact State.built_inv defaultTables_lawful

/-- Settles O4. -/
theorem resetIsSafe : Obligations.ResetIsSafe :=
  ⟨State.reset_inv, State.reset_pending, State.reset_responses⟩

end Sys2Proof.Machine
end
